-- ==== Sys2Proof/Word.lean ====
section
/-! DEFINITION. The word types of the hachi CHIP-8 core (spec 00_scope.md section 6, 10_state.md). -/

namespace Sys2Proof

/-- A memory cell or a general register: 8 bits, unsigned (R10, R20). -/
abbrev Byte := BitVec 8

/-- An opcode, `pc`, `I`, a call-stack entry or a fault's `info`: 16 bits (R12, R13, R14, R17, R21). -/
abbrev Word := BitVec 16

/-- The number of a general register, V0 to VF: a name, never computed with (R10, R46). -/
abbrev RegIdx := Fin 16

end Sys2Proof
end

