-- ==== Sys2Proof/Config.lean ====
section
/-! DEFINITION. The implementation parameters of R5: the fixed ones, the one open parameter `FONT`, and the
free values a model must not choose (spec 00_scope.md section 3, 93_implementation_defined.md). -/

namespace Sys2Proof

/-- `MEM_SIZE`: 4096 cells, addresses 0x000 to 0xFFF (R5, R30). -/
abbrev Config.memSize : Nat := 4096

/-- `PROGRAM_BASE`: the reset value of `pc` and the load address (R5, R127). -/
abbrev Config.programBase : Nat := 0x200

/-- `MAX_IMAGE` = 4096 - 0x200 bytes (R5, R128). -/
abbrev Config.maxImage : Nat := 3584

/-- `FONT_BASE` (R5, R32). -/
abbrev Config.fontBase : Nat := 0x050

/-- `FONT_SIZE`: 16 glyphs of 5 bytes, so the region is 0x050 to 0x09F inclusive (R5, R32). -/
abbrev Config.fontSize : Nat := 80

/-- `STACK_DEPTH` (R5, R14). -/
abbrev Config.stackDepth : Nat := 16

/-- The last `pc` a fetch may use: both `mem[pc]` and `mem[pc+1]` exist (R34, R104). -/
abbrev Config.lastFetch : Nat := 0x0FFE

/-- `FONT[0..79]`, the OPEN parameter of Reset (R33, decision D13): the spec's source never lists the bytes.
No body: whatever is proved holds for every font table. DESIGN CHOICE, safe: log 1. -/
opaque Config.font : Vector Byte Config.fontSize

/-- The conventional CHIP-8 table of R33, "which a model may take as the default value of the parameter"
(from general knowledge, not in the spec's source). The machine does not use it: it serves to evaluate
`Memory.unlistedWith` on one particular table. -/
def Config.conventionalFont : Vector Byte Config.fontSize :=
  #v[0xF0, 0x90, 0x90, 0x90, 0xF0, 0x20, 0x60, 0x20, 0x20, 0x70,
     0xF0, 0x10, 0xF0, 0x80, 0xF0, 0xF0, 0x10, 0xF0, 0x10, 0xF0,
     0x90, 0x90, 0xF0, 0x10, 0x10, 0xF0, 0x80, 0xF0, 0x10, 0xF0,
     0xF0, 0x80, 0xF0, 0x90, 0xF0, 0xF0, 0x10, 0x20, 0x40, 0x40,
     0xF0, 0x90, 0xF0, 0x90, 0xF0, 0xF0, 0x90, 0xF0, 0x10, 0xF0,
     0xF0, 0x90, 0xF0, 0x90, 0x90, 0xE0, 0x90, 0xE0, 0x90, 0xE0,
     0xF0, 0x80, 0x80, 0x80, 0xF0, 0xE0, 0x90, 0x90, 0x90, 0xE0,
     0xF0, 0x80, 0xF0, 0x80, 0xF0, 0xF0, 0x80, 0xF0, 0x80, 0x80]

/-- Free value (R128, decision D9, U4): after draw number `draw`, whether the cell at image offset `offset`
kept the byte of a Load that failed with LoadTooLarge (true) or reads 0x00 (false). No body. Log 2. -/
opaque Config.failedLoadKeeps (draw offset : Nat) : Bool

end Sys2Proof
end

