-- ==== Sys2Proof/Syntax.lean ====
section
/-! DEFINITION. The instructions: one constructor per row of spec/opcode_table.json, in the table's order
(30_encoding.md R46, R47, R50; 46_unimplemented.md R91). Operands carry their widths in their types, so every
term is well formed. -/

namespace Sys2Proof

/-- The 18 instructions of R50, then the 11 patterns of R91 that the spec names without an operation. -/
inductive Instr where
  /-- `00E0` CLS (R70). -/
  | cls
  /-- `00EE` RET (R71). -/
  | ret
  /-- `1nnn` JP nnn (R72). -/
  | jp (nnn : BitVec 12)
  /-- `2nnn` CALL nnn (R73). -/
  | call (nnn : BitVec 12)
  /-- `3xkk` SE Vx, kk (R75). -/
  | seImm (x : RegIdx) (kk : Byte)
  /-- `4xkk` SNE Vx, kk (R76). -/
  | sneImm (x : RegIdx) (kk : Byte)
  /-- `5xy0` SE Vx, Vy (R77). -/
  | seReg (x y : RegIdx)
  /-- `6xkk` LD Vx, kk (R80). -/
  | ldImm (x : RegIdx) (kk : Byte)
  /-- `7xkk` ADD Vx, kk (R81). -/
  | addImm (x : RegIdx) (kk : Byte)
  /-- `8xy0` LD Vx, Vy (R83). -/
  | ldReg (x y : RegIdx)
  /-- `8xy1` OR Vx, Vy (R84). -/
  | orReg (x y : RegIdx)
  /-- `8xy2` AND Vx, Vy (R85). -/
  | andReg (x y : RegIdx)
  /-- `8xy3` XOR Vx, Vy (R86). -/
  | xorReg (x y : RegIdx)
  /-- `8xy4` ADD Vx, Vy (R87). -/
  | addReg (x y : RegIdx)
  /-- `8xy5` SUB Vx, Vy (R88). -/
  | sub (x y : RegIdx)
  /-- `8xy6` SHR Vx; `y` is kept although the operation ignores it (R51, R89). -/
  | shr (x y : RegIdx)
  /-- `8xy7` SUBN Vx, Vy (R90). -/
  | subn (x y : RegIdx)
  /-- `9xy0` SNE Vx, Vy (R78). -/
  | sneReg (x y : RegIdx)
  /-- `Annn`, no defined operation (R91). -/
  | undefAnnn (nnn : BitVec 12)
  /-- `Dxyn`, no defined operation (R91). -/
  | undefDxyn (x y : RegIdx) (n : BitVec 4)
  /-- `Ex9E`, no defined operation (R91). -/
  | undefEx9E (x : RegIdx)
  /-- `ExA1`, no defined operation (R91). -/
  | undefExA1 (x : RegIdx)
  /-- `Fx07`, no defined operation (R91). -/
  | undefFx07 (x : RegIdx)
  /-- `Fx0A`, no defined operation (R91). -/
  | undefFx0A (x : RegIdx)
  /-- `Fx15`, no defined operation (R91). -/
  | undefFx15 (x : RegIdx)
  /-- `Fx18`, no defined operation (R91). -/
  | undefFx18 (x : RegIdx)
  /-- `Fx33`, no defined operation (R91). -/
  | undefFx33 (x : RegIdx)
  /-- `Fx55`, no defined operation (R91). -/
  | undefFx55 (x : RegIdx)
  /-- `Fx65`, no defined operation (R91). -/
  | undefFx65 (x : RegIdx)
deriving DecidableEq, Repr

end Sys2Proof
end

