-- ==== Sys2Proof/WellFormed.lean ====
section
/-! DEFINITION. Well-formedness of the written instruction: an assembler line of 30_encoding.md R53 (mnemonics
of R9). An `Instr` needs no check (its operand types carry the widths of R46); a line holds plain numbers, and
the checks here are the ranges of R46 and R48 and the operand kinds of R50's mnemonic column. -/

namespace Sys2Proof

/-- The 14 mnemonics of R9, and `DW` for a word that is data or Unknown (R53). -/
inductive Mnemonic where
  | cls | ret | jp | call | se | sne | ld | add | or | and | xor | sub | shr | subn | dw
deriving DecidableEq, Repr

/-- An operand as written: `Vx`, or a hexadecimal number (R53). -/
inductive AsmOperand where
  | reg (n : Nat)
  | lit (n : Nat)
deriving DecidableEq, Repr

/-- One line: the mnemonic, then its operands (R53). -/
structure AsmLine where
  mnemonic : Mnemonic
  operands : List AsmOperand
deriving DecidableEq, Repr

/-- `V0` to `VF` only (R10, R48). -/
def regInRange (n : Nat) : Bool := decide (n < 16)

/-- An immediate `kk`, 0 to 255 (R48). -/
def kkInRange (n : Nat) : Bool := decide (n < 256)

/-- An address `nnn`, 0 to 4095 (R48). -/
def nnnInRange (n : Nat) : Bool := decide (n < 4096)

/-- The lines that spell a word: operand kinds and ranges (R50, R53). `SHR Vx` may be written with or without
its ignored second register. -/
def AsmLine.wellFormed (l : AsmLine) : Bool :=
  match l.mnemonic, l.operands with
  | .cls, [] => true
  | .ret, [] => true
  | .jp, [.lit n] => nnnInRange n
  | .call, [.lit n] => nnnInRange n
  | .se, [.reg x, .lit k] => regInRange x && kkInRange k
  | .se, [.reg x, .reg y] => regInRange x && regInRange y
  | .sne, [.reg x, .lit k] => regInRange x && kkInRange k
  | .sne, [.reg x, .reg y] => regInRange x && regInRange y
  | .ld, [.reg x, .lit k] => regInRange x && kkInRange k
  | .ld, [.reg x, .reg y] => regInRange x && regInRange y
  | .add, [.reg x, .lit k] => regInRange x && kkInRange k
  | .add, [.reg x, .reg y] => regInRange x && regInRange y
  | .or, [.reg x, .reg y] => regInRange x && regInRange y
  | .and, [.reg x, .reg y] => regInRange x && regInRange y
  | .xor, [.reg x, .reg y] => regInRange x && regInRange y
  | .sub, [.reg x, .reg y] => regInRange x && regInRange y
  | .shr, [.reg x] => regInRange x
  | .shr, [.reg x, .reg y] => regInRange x && regInRange y
  | .subn, [.reg x, .reg y] => regInRange x && regInRange y
  | .dw, [.lit n] => decide (n < 65536)
  | _, _ => false

end Sys2Proof
end

