-- ==== Sys2Proof/Decode.lean ====
section
/-! DEFINITION. Fields, decoder, encoder and opcode table (spec 30_encoding.md, 46_unimplemented.md R91), and the
words an assembler line of R53 spells. -/

namespace Sys2Proof

/-! ## Bytes and fields -/

/-- `hi ++ lo`, the high byte first (R35). -/
def joinBytes (hi lo : Byte) : Word := hi ++ lo

/-- `w[15:8]`, the byte at the lower address (R35). -/
def highByte (w : Word) : Byte := w.extractLsb' 8 8

/-- `w[7:0]`, the byte at the higher address (R35). -/
def lowByte (w : Word) : Byte := w.extractLsb' 0 8

/-- Family selector `f`, bits 15:12 (R46). -/
def fieldF (w : Word) : BitVec 4 := w.extractLsb' 12 4

/-- `x`, bits 11:8 (R46). -/
def fieldX (w : Word) : RegIdx := (w.extractLsb' 8 4).toFin

/-- `y`, bits 7:4 (R46). -/
def fieldY (w : Word) : RegIdx := (w.extractLsb' 4 4).toFin

/-- `n`, bits 3:0 (R46). -/
def fieldN (w : Word) : BitVec 4 := w.extractLsb' 0 4

/-- `kk`, bits 7:0 (R46). -/
def fieldKK (w : Word) : Byte := w.extractLsb' 0 8

/-- `nnn`, bits 11:0 (R46). -/
def fieldNNN (w : Word) : BitVec 12 := w.extractLsb' 0 12

/-! ## Decoder -/

/-- Why a byte sequence is no instruction of the table. -/
inductive DecodeError where
  /-- `w` matches no row of R50 and no pattern of R91: Unknown (R49, R92). -/
  | unmatched (w : Word)
  /-- Fewer than the two bytes an instruction has (R45). -/
  | truncated
deriving DecidableEq, Repr

/-- `Decode` of R49: the family selector first, then the fixed nibbles. The eleven patterns of R91, Unknown in
R49, are told apart by name here; their meaning is the UnknownOpcode fault. -/
def decodeWord (w : Word) : Except DecodeError Instr :=
  match fieldF w with
  | 0x0#4 => if w = 0x00E0#16 then .ok .cls else if w = 0x00EE#16 then .ok .ret else .error (.unmatched w)
  | 0x1#4 => .ok (.jp (fieldNNN w))
  | 0x2#4 => .ok (.call (fieldNNN w))
  | 0x3#4 => .ok (.seImm (fieldX w) (fieldKK w))
  | 0x4#4 => .ok (.sneImm (fieldX w) (fieldKK w))
  | 0x5#4 => if fieldN w = 0x0#4 then .ok (.seReg (fieldX w) (fieldY w)) else .error (.unmatched w)
  | 0x6#4 => .ok (.ldImm (fieldX w) (fieldKK w))
  | 0x7#4 => .ok (.addImm (fieldX w) (fieldKK w))
  | 0x8#4 =>
    match fieldN w with
    | 0x0#4 => .ok (.ldReg (fieldX w) (fieldY w))
    | 0x1#4 => .ok (.orReg (fieldX w) (fieldY w))
    | 0x2#4 => .ok (.andReg (fieldX w) (fieldY w))
    | 0x3#4 => .ok (.xorReg (fieldX w) (fieldY w))
    | 0x4#4 => .ok (.addReg (fieldX w) (fieldY w))
    | 0x5#4 => .ok (.sub (fieldX w) (fieldY w))
    | 0x6#4 => .ok (.shr (fieldX w) (fieldY w))
    | 0x7#4 => .ok (.subn (fieldX w) (fieldY w))
    | _ => .error (.unmatched w)
  | 0x9#4 => if fieldN w = 0x0#4 then .ok (.sneReg (fieldX w) (fieldY w)) else .error (.unmatched w)
  | 0xA#4 => .ok (.undefAnnn (fieldNNN w))
  | 0xD#4 => .ok (.undefDxyn (fieldX w) (fieldY w) (fieldN w))
  | 0xE#4 =>
    match fieldKK w with
    | 0x9E#8 => .ok (.undefEx9E (fieldX w))
    | 0xA1#8 => .ok (.undefExA1 (fieldX w))
    | _ => .error (.unmatched w)
  | 0xF#4 =>
    match fieldKK w with
    | 0x07#8 => .ok (.undefFx07 (fieldX w))
    | 0x0A#8 => .ok (.undefFx0A (fieldX w))
    | 0x15#8 => .ok (.undefFx15 (fieldX w))
    | 0x18#8 => .ok (.undefFx18 (fieldX w))
    | 0x33#8 => .ok (.undefFx33 (fieldX w))
    | 0x55#8 => .ok (.undefFx55 (fieldX w))
    | 0x65#8 => .ok (.undefFx65 (fieldX w))
    | _ => .error (.unmatched w)
  | _ => .error (.unmatched w)

/-- Decoding bytes: the instruction at the front and the bytes after it; every instruction is two bytes, the
high one first (R45). -/
def decode : List Byte → Except DecodeError (Instr × List Byte)
  | hi :: lo :: rest =>
    match decodeWord (joinBytes hi lo) with
    | .ok i => .ok (i, rest)
    | .error e => .error e
  | _ => .error .truncated

/-- The 18 rows of R50 as against the 11 patterns of R91 (the table's "defined"). -/
def Instr.hasOperation (i : Instr) : Bool :=
  match i with
  | .cls | .ret | .jp _ | .call _ | .seImm _ _ | .sneImm _ _ | .seReg _ _ | .ldImm _ _ | .addImm _ _
  | .ldReg _ _ | .orReg _ _ | .andReg _ _ | .xorReg _ _ | .addReg _ _ | .sub _ _ | .shr _ _ | .subn _ _
  | .sneReg _ _ => true
  | .undefAnnn _ | .undefDxyn _ _ _ | .undefEx9E _ | .undefExA1 _ | .undefFx07 _ | .undefFx0A _
  | .undefFx15 _ | .undefFx18 _ | .undefFx33 _ | .undefFx55 _ | .undefFx65 _ => false

/-- R49's `Unknown`: the word decodes to none of the 18 instructions. -/
def isUnknown (w : Word) : Bool :=
  match decodeWord w with
  | .ok i => !i.hasOperation
  | .error _ => true

/-! ## Encoder -/

/-- Format NNN (R47). -/
def wordNNN (f : BitVec 4) (nnn : BitVec 12) : Word := f ++ nnn

/-- Format XKK (R47). -/
def wordXKK (f : BitVec 4) (x : RegIdx) (kk : Byte) : Word := f ++ BitVec.ofFin (w := 4) x ++ kk

/-- Format XYN (R47). -/
def wordXYN (f : BitVec 4) (x y : RegIdx) (n : BitVec 4) : Word :=
  f ++ BitVec.ofFin (w := 4) x ++ BitVec.ofFin (w := 4) y ++ n

/-- The word that spells an instruction (R47, R50, R91). -/
def encode (i : Instr) : Word :=
  match i with
  | .cls => 0x00E0#16
  | .ret => 0x00EE#16
  | .jp nnn => wordNNN 0x1#4 nnn
  | .call nnn => wordNNN 0x2#4 nnn
  | .seImm x kk => wordXKK 0x3#4 x kk
  | .sneImm x kk => wordXKK 0x4#4 x kk
  | .seReg x y => wordXYN 0x5#4 x y 0x0#4
  | .ldImm x kk => wordXKK 0x6#4 x kk
  | .addImm x kk => wordXKK 0x7#4 x kk
  | .ldReg x y => wordXYN 0x8#4 x y 0x0#4
  | .orReg x y => wordXYN 0x8#4 x y 0x1#4
  | .andReg x y => wordXYN 0x8#4 x y 0x2#4
  | .xorReg x y => wordXYN 0x8#4 x y 0x3#4
  | .addReg x y => wordXYN 0x8#4 x y 0x4#4
  | .sub x y => wordXYN 0x8#4 x y 0x5#4
  | .shr x y => wordXYN 0x8#4 x y 0x6#4
  | .subn x y => wordXYN 0x8#4 x y 0x7#4
  | .sneReg x y => wordXYN 0x9#4 x y 0x0#4
  | .undefAnnn nnn => wordNNN 0xA#4 nnn
  | .undefDxyn x y n => wordXYN 0xD#4 x y n
  | .undefEx9E x => wordXKK 0xE#4 x 0x9E#8
  | .undefExA1 x => wordXKK 0xE#4 x 0xA1#8
  | .undefFx07 x => wordXKK 0xF#4 x 0x07#8
  | .undefFx0A x => wordXKK 0xF#4 x 0x0A#8
  | .undefFx15 x => wordXKK 0xF#4 x 0x15#8
  | .undefFx18 x => wordXKK 0xF#4 x 0x18#8
  | .undefFx33 x => wordXKK 0xF#4 x 0x33#8
  | .undefFx55 x => wordXKK 0xF#4 x 0x55#8
  | .undefFx65 x => wordXKK 0xF#4 x 0x65#8

/-- The two bytes of a word as memory holds them (R35, R45). -/
def wordBytes (w : Word) : List Byte := [highByte w, lowByte w]

/-- The two bytes of an instruction as memory holds them. -/
def encodeBytes (i : Instr) : List Byte := wordBytes (encode i)

/-! ## The opcode table -/

/-- The mask and match of a row of spec/opcode_table.json. -/
structure OpcodeRow where
  mask : Word
  value : Word
deriving DecidableEq, Repr

/-- "a word `w` is the instruction exactly when `(w & mask) == match`" (R50). -/
def OpcodeRow.accepts (r : OpcodeRow) (w : Word) : Bool := decide (w &&& r.mask = r.value)

/-- The row of an instruction (R50, R91). -/
def Instr.row (i : Instr) : OpcodeRow :=
  match i with
  | .cls => ⟨0xFFFF, 0x00E0⟩
  | .ret => ⟨0xFFFF, 0x00EE⟩
  | .jp _ => ⟨0xF000, 0x1000⟩
  | .call _ => ⟨0xF000, 0x2000⟩
  | .seImm _ _ => ⟨0xF000, 0x3000⟩
  | .sneImm _ _ => ⟨0xF000, 0x4000⟩
  | .seReg _ _ => ⟨0xF00F, 0x5000⟩
  | .ldImm _ _ => ⟨0xF000, 0x6000⟩
  | .addImm _ _ => ⟨0xF000, 0x7000⟩
  | .ldReg _ _ => ⟨0xF00F, 0x8000⟩
  | .orReg _ _ => ⟨0xF00F, 0x8001⟩
  | .andReg _ _ => ⟨0xF00F, 0x8002⟩
  | .xorReg _ _ => ⟨0xF00F, 0x8003⟩
  | .addReg _ _ => ⟨0xF00F, 0x8004⟩
  | .sub _ _ => ⟨0xF00F, 0x8005⟩
  | .shr _ _ => ⟨0xF00F, 0x8006⟩
  | .subn _ _ => ⟨0xF00F, 0x8007⟩
  | .sneReg _ _ => ⟨0xF00F, 0x9000⟩
  | .undefAnnn _ => ⟨0xF000, 0xA000⟩
  | .undefDxyn _ _ _ => ⟨0xF000, 0xD000⟩
  | .undefEx9E _ => ⟨0xF0FF, 0xE09E⟩
  | .undefExA1 _ => ⟨0xF0FF, 0xE0A1⟩
  | .undefFx07 _ => ⟨0xF0FF, 0xF007⟩
  | .undefFx0A _ => ⟨0xF0FF, 0xF00A⟩
  | .undefFx15 _ => ⟨0xF0FF, 0xF015⟩
  | .undefFx18 _ => ⟨0xF0FF, 0xF018⟩
  | .undefFx33 _ => ⟨0xF0FF, 0xF033⟩
  | .undefFx55 _ => ⟨0xF0FF, 0xF055⟩
  | .undefFx65 _ => ⟨0xF0FF, 0xF065⟩

/-- The 29 rows of spec/opcode_table.json, in its order. -/
def opcodeTable : List OpcodeRow :=
  [Instr.cls.row, Instr.ret.row, (Instr.jp 0).row, (Instr.call 0).row, (Instr.seImm 0 0).row,
   (Instr.sneImm 0 0).row, (Instr.seReg 0 0).row, (Instr.ldImm 0 0).row, (Instr.addImm 0 0).row,
   (Instr.ldReg 0 0).row] ++
  [(Instr.orReg 0 0).row, (Instr.andReg 0 0).row, (Instr.xorReg 0 0).row, (Instr.addReg 0 0).row,
   (Instr.sub 0 0).row, (Instr.shr 0 0).row, (Instr.subn 0 0).row, (Instr.sneReg 0 0).row] ++
  [(Instr.undefAnnn 0).row, (Instr.undefDxyn 0 0 0).row, (Instr.undefEx9E 0).row, (Instr.undefExA1 0).row,
   (Instr.undefFx07 0).row, (Instr.undefFx0A 0).row, (Instr.undefFx15 0).row, (Instr.undefFx18 0).row,
   (Instr.undefFx33 0).row, (Instr.undefFx55 0).row, (Instr.undefFx65 0).row]

/-! ## The host's numbering of a table word -/

/-- The low `nbits` bits of `w` as one 16-bit opcode, every bit above them 0: bit 0 of the table is bit 0 of the
opcode (R46), and an instruction is one word (R45). -/
def tableWord (nbits w : Nat) : Word := BitVec.ofNat 16 (w % 2 ^ nbits)

/-- What the decoder reads from an instruction whose bits are `w`, laid out in memory high byte first. -/
def decodeTableWord (nbits w : Nat) : Option Instr :=
  match decode (wordBytes (tableWord nbits w)) with
  | .ok (i, _) => some i
  | .error _ => none

/-! ## Assembler lines (R53) -/

/-- Register operand as written. -/
def asmReg (n : Nat) : RegIdx := Fin.ofNat 16 n

/-- The word a line's mnemonic and operands spell, whatever their ranges: a register as second operand selects
the XYN form, a number the XKK form, and plain `SHR Vx` assembles `y = 0` (R53). -/
def AsmLine.word (l : AsmLine) : Option Word :=
  match l.mnemonic, l.operands with
  | .cls, [] => some (encode .cls)
  | .ret, [] => some (encode .ret)
  | .jp, [.lit n] => some (encode (.jp (BitVec.ofNat 12 n)))
  | .call, [.lit n] => some (encode (.call (BitVec.ofNat 12 n)))
  | .se, [.reg x, .lit k] => some (encode (.seImm (asmReg x) (BitVec.ofNat 8 k)))
  | .se, [.reg x, .reg y] => some (encode (.seReg (asmReg x) (asmReg y)))
  | .sne, [.reg x, .lit k] => some (encode (.sneImm (asmReg x) (BitVec.ofNat 8 k)))
  | .sne, [.reg x, .reg y] => some (encode (.sneReg (asmReg x) (asmReg y)))
  | .ld, [.reg x, .lit k] => some (encode (.ldImm (asmReg x) (BitVec.ofNat 8 k)))
  | .ld, [.reg x, .reg y] => some (encode (.ldReg (asmReg x) (asmReg y)))
  | .add, [.reg x, .lit k] => some (encode (.addImm (asmReg x) (BitVec.ofNat 8 k)))
  | .add, [.reg x, .reg y] => some (encode (.addReg (asmReg x) (asmReg y)))
  | .or, [.reg x, .reg y] => some (encode (.orReg (asmReg x) (asmReg y)))
  | .and, [.reg x, .reg y] => some (encode (.andReg (asmReg x) (asmReg y)))
  | .xor, [.reg x, .reg y] => some (encode (.xorReg (asmReg x) (asmReg y)))
  | .sub, [.reg x, .reg y] => some (encode (.sub (asmReg x) (asmReg y)))
  | .shr, [.reg x] => some (encode (.shr (asmReg x) 0))
  | .shr, [.reg x, .reg y] => some (encode (.shr (asmReg x) (asmReg y)))
  | .subn, [.reg x, .reg y] => some (encode (.subn (asmReg x) (asmReg y)))
  | .dw, [.lit n] => some (BitVec.ofNat 16 n)
  | _, _ => none

/-- Assembling a line: the word it spells, if it is well formed (R53). -/
def AsmLine.assemble (l : AsmLine) : Option Word := if l.wellFormed then l.word else none

/-- The line that writes an instruction down; a word with no operation is written `DW` (R53). -/
def Instr.listing (i : Instr) : AsmLine :=
  match i with
  | .cls => ⟨.cls, []⟩
  | .ret => ⟨.ret, []⟩
  | .jp nnn => ⟨.jp, [.lit nnn.toNat]⟩
  | .call nnn => ⟨.call, [.lit nnn.toNat]⟩
  | .seImm x kk => ⟨.se, [.reg x.val, .lit kk.toNat]⟩
  | .sneImm x kk => ⟨.sne, [.reg x.val, .lit kk.toNat]⟩
  | .seReg x y => ⟨.se, [.reg x.val, .reg y.val]⟩
  | .ldImm x kk => ⟨.ld, [.reg x.val, .lit kk.toNat]⟩
  | .addImm x kk => ⟨.add, [.reg x.val, .lit kk.toNat]⟩
  | .ldReg x y => ⟨.ld, [.reg x.val, .reg y.val]⟩
  | .orReg x y => ⟨.or, [.reg x.val, .reg y.val]⟩
  | .andReg x y => ⟨.and, [.reg x.val, .reg y.val]⟩
  | .xorReg x y => ⟨.xor, [.reg x.val, .reg y.val]⟩
  | .addReg x y => ⟨.add, [.reg x.val, .reg y.val]⟩
  | .sub x y => ⟨.sub, [.reg x.val, .reg y.val]⟩
  | .shr x y => ⟨.shr, [.reg x.val, .reg y.val]⟩
  | .subn x y => ⟨.subn, [.reg x.val, .reg y.val]⟩
  | .sneReg x y => ⟨.sne, [.reg x.val, .reg y.val]⟩
  | .undefAnnn _ | .undefDxyn _ _ _ | .undefEx9E _ | .undefExA1 _ | .undefFx07 _ | .undefFx0A _
  | .undefFx15 _ | .undefFx18 _ | .undefFx33 _ | .undefFx55 _ | .undefFx65 _ =>
    ⟨.dw, [.lit (encode i).toNat]⟩

end Sys2Proof
end

