-- ==== Sys2Proof/Machine/State.lean ====
section
/-! DEFINITION. The state of the machine, plain data, and its value right after Reset (spec 10_state.md R10 to R27,
70_reset_and_hazards.md R125). -/

namespace Sys2Proof.Machine

/-- The four causes of R100. -/
inductive FaultCause where
  /-- Code 1 (R101). -/
  | unknownOpcode
  /-- Code 2 (R102). -/
  | stackOverflow
  /-- Code 3 (R103). -/
  | stackUnderflow
  /-- Code 4 (R104). -/
  | fetchOutOfBounds
deriving DecidableEq, Repr

/-- A fault record `(cause, info)` (R21). -/
structure FaultRecord where
  cause : FaultCause
  info : Word
deriving DecidableEq, Repr

/-- Why a Load failed (R105, R128, R130). -/
inductive LoadError where
  | tooLarge
  | ioError
deriving DecidableEq, Repr

/-- Where the run stands (R66, R127, R131): right after Reset; after the one Load that returned `ok`; after the
first Step; after a Load that failed, until the next Reset. The last also says the failed Load's result. -/
inductive RunPhase where
  | fresh
  | loaded
  | running
  | failed (e : LoadError)
deriving DecidableEq, Repr

/-- The byte source of a Load (R127, R130): the bytes it delivers, in order, and whether it then fails with an
I/O error instead of ending. -/
structure ImageSource where
  bytes : List Byte
  ioError : Bool
deriving DecidableEq, Repr

/-- The actions of R6 and R8. -/
inductive Action where
  | step
  | tick
  | setKey (k : Fin 16) (b : Bool)
  | load (src : ImageSource)
  | reset
deriving DecidableEq, Repr

/-- The framebuffer, 32 rows of 64 columns, row-major (R19). -/
abbrev Framebuffer := Vector (Vector Bool 64) 32

/-- The Machine State (R10 to R21, exhaustive by R23 and R24), the run's phase (R66, R131), and two fields of
the model's own: `schedule` (log 3) and `draws` (log 2). -/
structure State where
  /-- V0 to VF; VF is the flag register (R10, R11). -/
  V : Vector Byte 16
  /-- The index register (R12). -/
  I : Word
  /-- The program counter (R13). -/
  pc : Word
  /-- The call stack (R14). -/
  stack : Vector Word 16
  /-- The stack pointer, 0 to 16, the number of entries in use (R15; other values excluded by type). -/
  sp : Fin 17
  /-- The delay timer (R16). -/
  dt : Byte
  /-- The sound timer (R16). -/
  st : Byte
  /-- The opcode register (R17). -/
  opcode : Word
  /-- The keypad (R18). -/
  key : Vector Bool 16
  /-- The framebuffer (R19). -/
  fb : Framebuffer
  /-- Memory (R20): the cells that differ from what `Memory.unlisted` gives, addresses rising. -/
  mem : List Host.Cell
  /-- The fault latch (R21). -/
  fault : Option FaultRecord
  /-- Where the run stands (R66, R131). Log 4. -/
  phase : RunPhase
  /-- The actions still to come, the head next; when it is empty the instruction engine acts. The model's own. Log 3. -/
  schedule : List Action
  /-- How many free values have been drawn. The model's own. Log 2. -/
  draws : Nat
deriving DecidableEq, Repr

/-- The fresh machine (R25, R125): every element at the value the spec states; memory lists nothing, so it reads
as the reset contents. -/
def State.reset : State where
  V := Vector.replicate 16 0x00#8
  I := 0x0000#16
  pc := 0x0200#16
  stack := Vector.replicate 16 0x0000#16
  sp := 0
  dt := 0x00#8
  st := 0x00#8
  opcode := 0x0000#16
  key := Vector.replicate 16 false
  fb := Vector.replicate 32 (Vector.replicate 64 false)
  mem := []
  fault := none
  phase := .fresh
  schedule := []
  draws := 0

/-- Why the machine stops. -/
inductive Fault where
  /-- Raised by a Step while the fault latch holds `r`: Step is not enabled and the engine is halted until Reset
  (R66, R108, R109). Safe: the spec gives the Step no move there. -/
  | engineHalted (r : FaultRecord)
deriving DecidableEq, Repr

/-- Why an action has no meaning. -/
inductive Refusal where
  /-- Raised by an arm of `exec` for an instruction without a meaning; no arm does. Safe. -/
  | notModelled (mnemonic : String)
  /-- Raised by a Load that is not the first since Reset or comes after a Step: "a model refuses them" (R127,
  R131, decision D16). Safe. -/
  | loadNotFresh
  /-- Raised by a Step after a failed Load: "a model gives the Step action no meaning there" (R128, R130, R131,
  decision D9). Safe. -/
  | stepAfterFailedLoad
deriving DecidableEq, Repr

end Sys2Proof.Machine
end

