-- ==== Sys2Proof/Machine/Ops.lean ====
section
/-! DEFINITION. The named operations over memory, registers, stack, framebuffer and fault latch, each written once:
memory (spec 20_memory.md), registers (10_state.md), the call stack (42_flow.md), fault entry (60_exceptions.md
R108). There is no return from a fault (R109). -/

namespace Sys2Proof.Machine

/-! ## Memory -/

/-- What an address with no listed cell reads as, for a given font table: the reset contents (R32, R33, R125). -/
def Memory.unlistedWith (font : Vector Byte Config.fontSize) (a : Nat) : Byte :=
  if h : Config.fontBase ≤ a ∧ a < Config.fontBase + Config.fontSize then
    font[a - Config.fontBase]'(by omega)
  else 0x00#8

/-- What an address with no listed cell reads as. -/
def Memory.unlisted (a : Nat) : Byte := Memory.unlistedWith Config.font a

/-- `mem[a]` (R20, R37). -/
def Memory.read (m : List Host.Cell) (a : Nat) : Byte :=
  match m with
  | [] => Memory.unlisted a
  | (k, b) :: rest => if k = a then b else Memory.read rest a

/-- `mem[a] <- b`, keeping the canonical form. -/
def Memory.write (m : List Host.Cell) (a : Nat) (b : Byte) : List Host.Cell :=
  match m with
  | [] => if b = Memory.unlisted a then [] else [(a, b)]
  | (k, c) :: rest =>
    if a < k then (if b = Memory.unlisted a then (k, c) :: rest else (a, b) :: (k, c) :: rest)
    else if a = k then (if b = Memory.unlisted a then rest else (a, b) :: rest)
    else (k, c) :: Memory.write rest a b

/-- `MemRead(addr, n)`: the `n` bytes from `addr` on, defined only inside the 4096 cells (00_scope.md section 6,
R34). -/
def Memory.readBytes (m : List Host.Cell) (addr n : Nat) : Option (List Byte) :=
  if addr + n ≤ Config.memSize then some ((List.range n).map fun i => Memory.read m (addr + i)) else none

/-- `MemWrite(addr, n, v)`, one byte at a time in increasing address order (R37). Its callers keep inside the 4096
cells (R34). -/
def Memory.writeBytes (m : List Host.Cell) (addr : Nat) (bytes : List Byte) : List Host.Cell :=
  match bytes with
  | [] => m
  | b :: rest => Memory.writeBytes (Memory.write m addr b) (addr + 1) rest

/-- The canonical form: addresses below 4096 and strictly rising, no cell equal to what an unlisted address reads
as. -/
def Memory.wf (m : List Host.Cell) : Bool :=
  match m with
  | [] => true
  | (k, b) :: rest =>
    decide (k < Config.memSize) && decide (b ≠ Memory.unlisted k) && rest.all (fun c => decide (k < c.1)) &&
      Memory.wf rest

/-! ## Registers -/

/-- The number of the flag register VF (R11). -/
def flagReg : RegIdx := 15

/-- `V[x]` (R10). -/
def State.reg (s : State) (x : RegIdx) : Byte := s.V[x.val]

/-- `V[x] <- b` (R10). -/
def State.setReg (s : State) (x : RegIdx) (b : Byte) : State := { s with V := s.V.set x.val b x.isLt }

/-- The result to `V[x]`, then, last, the flag to VF (R82). -/
def State.setResultAndFlag (s : State) (x : RegIdx) (result flag : Byte) : State :=
  (s.setReg x result).setReg flagReg flag

/-- `pc <- target` (R13). -/
def State.setPc (s : State) (target : Word) : State := { s with pc := target }

/-- `pc <- (pc + 2) mod 65536`: the default advance of R64, and the extra skip of 43_skip.md. -/
def State.advancePc (s : State) : State := s.setPc (s.pc + 2#16)

/-- `opcode <- w` (R17, R61). -/
def State.setOpcode (s : State) (w : Word) : State := { s with opcode := w }

/-! ## Call stack -/

/-- `stack[sp] <- v; sp <- sp + 1`; none when the stack is full (R14, R15, R73). -/
def State.push (s : State) (v : Word) : Option State :=
  if h : s.sp.val < Config.stackDepth then
    some { s with stack := s.stack.set s.sp.val v h, sp := ⟨s.sp.val + 1, Nat.succ_lt_succ h⟩ }
  else none

/-- `sp <- sp - 1`, and the entry `stack[sp]` at the new `sp`, which keeps its value; none when the stack is empty
(R14, R15, R71). -/
def State.pop (s : State) : Option (Word × State) :=
  if h : 0 < s.sp.val then
    some (s.stack[s.sp.val - 1]'(by omega), { s with sp := ⟨s.sp.val - 1, by omega⟩ })
  else none

/-! ## Framebuffer, timers, keys -/

/-- Every cell false (R70). -/
def State.clearFb (s : State) : State := { s with fb := Vector.replicate 32 (Vector.replicate 64 false) }

/-- The cell of column `cx`, row `cy` (R19). -/
def State.pixel (s : State) (cx : Fin 64) (cy : Fin 32) : Bool := s.fb[cy.val][cx.val]

/-- `fb[i]`, row-major: `fb[cy * 64 + cx]` is the cell of column `cx`, row `cy` (R19). -/
def State.cell (s : State) (i : Fin 2048) : Bool :=
  s.pixel ⟨i.val % 64, Nat.mod_lt _ (by omega)⟩ ⟨i.val / 64, by omega⟩

/-- `dt` and `st` written together (R112). -/
def State.setTimers (s : State) (dt st : Byte) : State := { s with dt := dt, st := st }

/-- `key[k]` (R18). -/
def State.keyDown (s : State) (k : Fin 16) : Bool := s.key[k.val]

/-- `key[k] <- b` (R116). -/
def State.setKey (s : State) (k : Fin 16) (b : Bool) : State := { s with key := s.key.set k.val b k.isLt }

/-- `sound_active`, true exactly when `st != 0` (R8, R114). -/
def State.soundActive (s : State) : Bool := decide (s.st ≠ 0x00#8)

/-! ## Memory, phase and the model's own fields -/

/-- The memory replaced as a whole. -/
def State.setMem (s : State) (m : List Host.Cell) : State := { s with mem := m }

/-- The phase of the run (R131). -/
def State.setPhase (s : State) (p : RunPhase) : State := { s with phase := p }

/-- The actions still to come. -/
def State.setSchedule (s : State) (l : List Action) : State := { s with schedule := l }

/-- The number of free values drawn. -/
def State.setDraws (s : State) (n : Nat) : State := { s with draws := n }

/-! ## Faults -/

/-- The cause codes of R100. -/
def FaultCause.code (c : FaultCause) : Nat :=
  match c with
  | .unknownOpcode => 1
  | .stackOverflow => 2
  | .stackUnderflow => 3
  | .fetchOutOfBounds => 4

/-- `raise F(info)`, fault entry (R108): `fault <- (c, v)`; every other element keeps its value, `pc` included; no
control transfer. -/
def State.takeFault (s : State) (c : FaultCause) (v : Word) : State := { s with fault := some ⟨c, v⟩ }

/-- Whether Step is defined in a phase: not after a failed Load (R66, R128, R130, R131). -/
def RunPhase.allowsStep (p : RunPhase) : Bool :=
  match p with
  | .fresh | .loaded | .running => true
  | .failed _ => false

end Sys2Proof.Machine
end

