-- ==== Sys2Proof/Machine/Operands.lean ====
section
/-! DEFINITION. The operand forms of the instruction set (spec 30_encoding.md R46, R48): registers `x` and `y`, the
immediate `kk`, the address `nnn`. `n` is never an operand. -/

namespace Sys2Proof.Machine

/-- `V[x]` or `V[y]`: the index is used as it stands, all 16 legal (R48). -/
def regOperand (x : RegIdx) (s : State) : Byte := s.reg x

/-- `kk`: unsigned, neither extended nor scaled (R48). -/
def immOperand (kk : Byte) : Byte := kk

/-- `zext_16(nnn)`: a byte address, not scaled, not forced even (R48). -/
def addrOperand (nnn : BitVec 12) : Word := nnn.zeroExtend 16

end Sys2Proof.Machine
end

