-- ==== Sys2Proof/Machine/Flags.lean ====
section
/-! DEFINITION. The 8-bit results and the flag values of the register-register family (spec 45_alu.md R82, R87 to
R90), functions of the operands as they were before any write. -/

namespace Sys2Proof.Machine

/-- `zext_9(a) + zext_9(b)` (R87). -/
def sum9 (a b : Byte) : BitVec 9 := a.zeroExtend 9 + b.zeroExtend 9

/-- `sum[7:0]` (R87). -/
def addResult (a b : Byte) : Byte := (sum9 a b).extractLsb' 0 8

/-- `zext_8(sum[8])`: 1 iff the unsigned sum exceeds 255 (R87). -/
def carryFlag (a b : Byte) : Byte := ((sum9 a b).extractLsb' 8 1).zeroExtend 8

/-- `(a - b) mod 256` (R88, R90). -/
def subResult (a b : Byte) : Byte := a - b

/-- `(a >= b) ? 0x01 : 0x00`, unsigned: NOT-borrow of `a - b` (R88, R90). -/
def noBorrowFlag (a b : Byte) : Byte := if b.toNat ≤ a.toNat then 0x01#8 else 0x00#8

/-- `a >> 1`, logical (R89). -/
def shrResult (a : Byte) : Byte := a >>> 1

/-- `zext_8(a[0])`: the bit shifted out (R89). -/
def shrFlag (a : Byte) : Byte := (a.extractLsb' 0 1).zeroExtend 8

end Sys2Proof.Machine
end

