-- ==== Sys2Proof/Machine/Alu.lean ====
section
/-! DEFINITION. Register-register family (spec 45_alu.md): moves and logic without a flag effect, then the four
instructions that write VF last (R82). -/

namespace Sys2Proof.Machine

/-- `8xy0` LD Vx, Vy (R83). -/
def execLdReg (x y : RegIdx) (s : State) : Host.Outcome State Fault Refusal :=
  .next (s.setReg x (regOperand y s))

/-- `8xy1` OR Vx, Vy (R84). -/
def execOrReg (x y : RegIdx) (s : State) : Host.Outcome State Fault Refusal :=
  .next (s.setReg x (regOperand x s ||| regOperand y s))

/-- `8xy2` AND Vx, Vy (R85). -/
def execAndReg (x y : RegIdx) (s : State) : Host.Outcome State Fault Refusal :=
  .next (s.setReg x (regOperand x s &&& regOperand y s))

/-- `8xy3` XOR Vx, Vy (R86). -/
def execXorReg (x y : RegIdx) (s : State) : Host.Outcome State Fault Refusal :=
  .next (s.setReg x (regOperand x s ^^^ regOperand y s))

/-- `8xy4` ADD Vx, Vy: VF is the carry (R87). -/
def execAddReg (x y : RegIdx) (s : State) : Host.Outcome State Fault Refusal :=
  let a := regOperand x s
  let b := regOperand y s
  .next (s.setResultAndFlag x (addResult a b) (carryFlag a b))

/-- `8xy5` SUB Vx, Vy: VF is NOT-borrow of `Vx - Vy` (R88). -/
def execSub (x y : RegIdx) (s : State) : Host.Outcome State Fault Refusal :=
  let a := regOperand x s
  let b := regOperand y s
  .next (s.setResultAndFlag x (subResult a b) (noBorrowFlag a b))

/-- `8xy6` SHR Vx: VF is the bit shifted out; the `y` field takes no part (R51, R89). -/
def execShr (x : RegIdx) (s : State) : Host.Outcome State Fault Refusal :=
  let a := regOperand x s
  .next (s.setResultAndFlag x (shrResult a) (shrFlag a))

/-- `8xy7` SUBN Vx, Vy: VF is NOT-borrow of `Vy - Vx` (R90). -/
def execSubn (x y : RegIdx) (s : State) : Host.Outcome State Fault Refusal :=
  let a := regOperand x s
  let b := regOperand y s
  .next (s.setResultAndFlag x (subResult b a) (noBorrowFlag b a))

end Sys2Proof.Machine
end

