-- ==== Sys2Proof/Machine/Display.lean ====
section
/-! DEFINITION. Display family (spec 41_display.md). -/

namespace Sys2Proof.Machine

/-- `00E0` CLS: "Framebuffer ← all false" (R70). -/
def execCls (s : State) : Host.Outcome State Fault Refusal := .next s.clearFb

end Sys2Proof.Machine
end

