-- ==== Sys2Proof/Machine/Flow.lean ====
section
/-! DEFINITION. Control-transfer family (spec 42_flow.md): the `Exec` effects, without the sequencer's advance. -/

namespace Sys2Proof.Machine

/-- `00EE` RET: `sp <- sp - 1; pc <- stack[sp]`, or StackUnderflow on an empty stack (R71, R103). -/
def execRet (s : State) : Host.Outcome State Fault Refusal :=
  match s.pop with
  | some (c, s') => .next (s'.setPc c)
  | none => .next (s.takeFault .stackUnderflow s.pc)

/-- `1nnn` JP: `pc <- nnn` (R72). -/
def execJp (nnn : BitVec 12) (s : State) : Host.Outcome State Fault Refusal := .next (s.setPc (addrOperand nnn))

/-- `2nnn` CALL: pushes `pc`, the address of the Call itself, then `pc <- nnn`, or StackOverflow on a full stack
(R73, R102). -/
def execCall (nnn : BitVec 12) (s : State) : Host.Outcome State Fault Refusal :=
  match s.push s.pc with
  | some s' => .next (s'.setPc (addrOperand nnn))
  | none => .next (s.takeFault .stackOverflow s.pc)

end Sys2Proof.Machine
end

