-- ==== Sys2Proof/Machine/Immediate.lean ====
section
/-! DEFINITION. Register-immediate family (spec 44_immediate.md). No flag effect. -/

namespace Sys2Proof.Machine

/-- `6xkk` LD Vx, kk (R80). -/
def execLdImm (x : RegIdx) (kk : Byte) (s : State) : Host.Outcome State Fault Refusal :=
  .next (s.setReg x (immOperand kk))

/-- `7xkk` ADD Vx, kk: modulo 256, VF not written as a flag (R81). -/
def execAddImm (x : RegIdx) (kk : Byte) (s : State) : Host.Outcome State Fault Refusal :=
  .next (s.setReg x (regOperand x s + immOperand kk))

end Sys2Proof.Machine
end

