-- ==== Sys2Proof/Machine/Skip.lean ====
section
/-! DEFINITION. Conditional-skip family (spec 43_skip.md): the extra skip only; the default advance is the
sequencer's. -/

namespace Sys2Proof.Machine

/-- "if …, apply extra skip" (R75 to R79). -/
def skipIf (c : Bool) (s : State) : State := if c then s.advancePc else s

/-- `3xkk` SE Vx, kk (R75). -/
def execSeImm (x : RegIdx) (kk : Byte) (s : State) : Host.Outcome State Fault Refusal :=
  .next (skipIf (decide (regOperand x s = immOperand kk)) s)

/-- `4xkk` SNE Vx, kk (R76). -/
def execSneImm (x : RegIdx) (kk : Byte) (s : State) : Host.Outcome State Fault Refusal :=
  .next (skipIf (decide (regOperand x s ≠ immOperand kk)) s)

/-- `5xy0` SE Vx, Vy (R77). -/
def execSeReg (x y : RegIdx) (s : State) : Host.Outcome State Fault Refusal :=
  .next (skipIf (decide (regOperand x s = regOperand y s)) s)

/-- `9xy0` SNE Vx, Vy (R78). -/
def execSneReg (x y : RegIdx) (s : State) : Host.Outcome State Fault Refusal :=
  .next (skipIf (decide (regOperand x s ≠ regOperand y s)) s)

end Sys2Proof.Machine
end

