-- ==== Sys2Proof/Machine/Unimplemented.lean ====
section
/-! DEFINITION. Opcodes with no defined operation (spec 46_unimplemented.md R91, R92): executing one raises
UnknownOpcode with the opcode register as `info` (60_exceptions.md R101), and so does every word that matches no
row of the table. "They are not no-ops", and a model must not supply their usual CHIP-8 meaning. -/

namespace Sys2Proof.Machine

/-- `raise UnknownOpcode(opcode)` (R62, R101). -/
def State.raiseUnknown (s : State) : State := s.takeFault .unknownOpcode s.opcode

/-- `Annn`, "index-register load", no defined operation: UnknownOpcode (R91). -/
def execUndefAnnn (_nnn : BitVec 12) (s : State) : Host.Outcome State Fault Refusal := .next s.raiseUnknown

/-- `Dxyn`, "sprite drawing", no defined operation: UnknownOpcode (R91). -/
def execUndefDxyn (_x _y : RegIdx) (_n : BitVec 4) (s : State) : Host.Outcome State Fault Refusal := .next s.raiseUnknown

/-- `Ex9E`, "keypad-dependent", no defined operation: UnknownOpcode (R91). -/
def execUndefEx9E (_x : RegIdx) (s : State) : Host.Outcome State Fault Refusal := .next s.raiseUnknown

/-- `ExA1`, "keypad-dependent", no defined operation: UnknownOpcode (R91). -/
def execUndefExA1 (_x : RegIdx) (s : State) : Host.Outcome State Fault Refusal := .next s.raiseUnknown

/-- `Fx07`, "timer-tied", no defined operation: UnknownOpcode (R91). -/
def execUndefFx07 (_x : RegIdx) (s : State) : Host.Outcome State Fault Refusal := .next s.raiseUnknown

/-- `Fx0A`, "keypad-dependent", no defined operation: UnknownOpcode (R91). -/
def execUndefFx0A (_x : RegIdx) (s : State) : Host.Outcome State Fault Refusal := .next s.raiseUnknown

/-- `Fx15`, "timer-tied", no defined operation: UnknownOpcode (R91). -/
def execUndefFx15 (_x : RegIdx) (s : State) : Host.Outcome State Fault Refusal := .next s.raiseUnknown

/-- `Fx18`, "timer-tied", no defined operation: UnknownOpcode (R91). -/
def execUndefFx18 (_x : RegIdx) (s : State) : Host.Outcome State Fault Refusal := .next s.raiseUnknown

/-- `Fx33`, "BCD/memory block", no defined operation: UnknownOpcode (R91). -/
def execUndefFx33 (_x : RegIdx) (s : State) : Host.Outcome State Fault Refusal := .next s.raiseUnknown

/-- `Fx55`, "BCD/memory block", no defined operation: UnknownOpcode (R91). -/
def execUndefFx55 (_x : RegIdx) (s : State) : Host.Outcome State Fault Refusal := .next s.raiseUnknown

/-- `Fx65`, "BCD/memory block", no defined operation: UnknownOpcode (R91). -/
def execUndefFx65 (_x : RegIdx) (s : State) : Host.Outcome State Fault Refusal := .next s.raiseUnknown

end Sys2Proof.Machine
end

