-- ==== Sys2Proof/Machine/Dispatch.lean ====
section
/-! DEFINITION. `Exec` of R63, the engine proper: one arm per instruction, each one direct call of its meaning. It
reads the state with the opcode already fetched and does not advance `pc`; the sequencer does (R64, Cycle.lean). -/

namespace Sys2Proof.Machine

def exec (i : Instr) (s : State) : Host.Outcome State Fault Refusal :=
  match i with
  | .cls => Sys2Proof.Machine.execCls s
  | .ret => Sys2Proof.Machine.execRet s
  | .jp nnn => Sys2Proof.Machine.execJp nnn s
  | .call nnn => Sys2Proof.Machine.execCall nnn s
  | .seImm x kk => Sys2Proof.Machine.execSeImm x kk s
  | .sneImm x kk => Sys2Proof.Machine.execSneImm x kk s
  | .seReg x y => Sys2Proof.Machine.execSeReg x y s
  | .ldImm x kk => Sys2Proof.Machine.execLdImm x kk s
  | .addImm x kk => Sys2Proof.Machine.execAddImm x kk s
  | .ldReg x y => Sys2Proof.Machine.execLdReg x y s
  | .orReg x y => Sys2Proof.Machine.execOrReg x y s
  | .andReg x y => Sys2Proof.Machine.execAndReg x y s
  | .xorReg x y => Sys2Proof.Machine.execXorReg x y s
  | .addReg x y => Sys2Proof.Machine.execAddReg x y s
  | .sub x y => Sys2Proof.Machine.execSub x y s
  | .shr x _ => Sys2Proof.Machine.execShr x s
  | .subn x y => Sys2Proof.Machine.execSubn x y s
  | .sneReg x y => Sys2Proof.Machine.execSneReg x y s
  | .undefAnnn nnn => Sys2Proof.Machine.execUndefAnnn nnn s
  | .undefDxyn x y n => Sys2Proof.Machine.execUndefDxyn x y n s
  | .undefEx9E x => Sys2Proof.Machine.execUndefEx9E x s
  | .undefExA1 x => Sys2Proof.Machine.execUndefExA1 x s
  | .undefFx07 x => Sys2Proof.Machine.execUndefFx07 x s
  | .undefFx0A x => Sys2Proof.Machine.execUndefFx0A x s
  | .undefFx15 x => Sys2Proof.Machine.execUndefFx15 x s
  | .undefFx18 x => Sys2Proof.Machine.execUndefFx18 x s
  | .undefFx33 x => Sys2Proof.Machine.execUndefFx33 x s
  | .undefFx55 x => Sys2Proof.Machine.execUndefFx55 x s
  | .undefFx65 x => Sys2Proof.Machine.execUndefFx65 x s

end Sys2Proof.Machine
end

