-- ==== Sys2Proof/Machine/Cycle.lean ====
section
/-! DEFINITION. The instruction cycle (spec 40_cycle.md): fetch, decode, execute, advance, and Step's enabling
condition. Step.lean only calls what stands here and in HostActions.lean. -/

namespace Sys2Proof.Machine

/-- The word a fetch reads, high byte first; none when `pc > 0x0FFE` (R34, R35, R61, R104). -/
def State.fetchedWord (s : State) : Option Word :=
  match Memory.readBytes s.mem s.pc.toNat 2 with
  | some [hi, lo] => some (joinBytes hi lo)
  | _ => none

/-- The two instructions after which no advance follows: JP and CALL, not RET (R64). -/
def suppressesAdvance (i : Instr) : Bool :=
  match i with
  | .jp _ | .call _ => true
  | .cls | .ret | .seImm _ _ | .sneImm _ _ | .seReg _ _ | .ldImm _ _ | .addImm _ _ | .ldReg _ _ | .orReg _ _
  | .andReg _ _ | .xorReg _ _ | .addReg _ _ | .sub _ _ | .shr _ _ | .subn _ _ | .sneReg _ _ | .undefAnnn _
  | .undefDxyn _ _ _ | .undefEx9E _ | .undefExA1 _ | .undefFx07 _ | .undefFx0A _ | .undefFx15 _ | .undefFx18 _
  | .undefFx33 _ | .undefFx55 _ | .undefFx65 _ => false

/-- The advance phase after `Exec` of `i` has given `s`: `pc + 2`, but for JP and CALL, and but for a raise, which
ends the Step before it (R60, R64). -/
def advanceAfter (i : Instr) (s : State) : State :=
  match s.fault with
  | some _ => s
  | none => if suppressesAdvance i then s else s.advancePc

/-- The execute and advance phases (R60, R63, R64). -/
def executeInstr (i : Instr) (s : State) : Host.Outcome State Fault Refusal :=
  match exec i s with
  | .next s' => .next (advanceAfter i s')
  | .fault f => .fault f
  | .refused r => .refused r

/-- The Step from the moment the fetch has read `w`: the opcode register, decode, execute, advance (R60 to R64). A
word of no row raises UnknownOpcode (R62, R101). -/
def executeWord (w : Word) (s : State) : Host.Outcome State Fault Refusal :=
  match decodeWord w with
  | .ok i => executeInstr i (s.setOpcode w)
  | .error _ => .next (s.setOpcode w).raiseUnknown

/-- One enabled Step: fetch, then the rest; an impossible fetch raises FetchOutOfBounds and writes nothing else
(R60, R61, R104). -/
def stepCycle (s : State) : Host.Outcome State Fault Refusal :=
  match s.fetchedWord with
  | some w => executeWord w s
  | none => .next (s.takeFault .fetchOutOfBounds s.pc)

/-- The Step action (R60, R66): not enabled with a fault latched, without meaning after a failed Load (R131). The
first Step ends the time in which a Load is allowed. -/
def engineStep (s : State) : Host.Outcome State Fault Refusal :=
  match s.fault with
  | some r => .fault (.engineHalted r)
  | none => if s.phase.allowsStep then stepCycle (s.setPhase .running) else .refused .stepAfterFailedLoad

end Sys2Proof.Machine
end

