-- ==== Sys2Proof/Machine/HostActions.lean ====
section
/-! DEFINITION. The other agents' actions (spec 00_scope.md R6, R8): Tick (60_exceptions.md R112), SetKey (R116),
Load and Reset (70_reset_and_hazards.md R125 to R131), and the choice of the next action from the schedule. -/

namespace Sys2Proof.Machine

/-- One count down, floored at 0 (R112). -/
def countDown (t : Byte) : Byte := if t = 0x00#8 then 0x00#8 else t - 1#8

/-- Tick (R112). -/
def tick (s : State) : State := s.setTimers (countDown s.dt) (countDown s.st)

/-- The bytes found at the image's offsets after LoadTooLarge, from offset `off` on: each the image byte or 0x00,
whichever the free value says (R128, decision D9). -/
def failedLoadBytes (draw off : Nat) (bytes : List Byte) : List Byte :=
  match bytes with
  | [] => []
  | b :: rest => (if Config.failedLoadKeeps draw off then b else 0x00#8) :: failedLoadBytes draw (off + 1) rest

/-- Load of `src` on a fresh machine: the result is the phase it leaves (R127 to R130). Bytes past the end of
memory are never written. -/
def loadImage (src : ImageSource) (s : State) : State :=
  if src.ioError then
    (s.setMem (Memory.writeBytes s.mem Config.programBase (src.bytes.take Config.maxImage))).setPhase
      (.failed .ioError)
  else if Config.maxImage < src.bytes.length then
    ((s.setMem (Memory.writeBytes s.mem Config.programBase
        (failedLoadBytes s.draws 0 (src.bytes.take Config.maxImage)))).setDraws (s.draws + 1)).setPhase
      (.failed .tooLarge)
  else
    (s.setMem (Memory.writeBytes s.mem Config.programBase src.bytes)).setPhase .loaded

/-- Load is defined once, after Reset and before the first Step (R6, R127, R131). -/
def load (src : ImageSource) (s : State) : Host.Outcome State Fault Refusal :=
  match s.phase with
  | .fresh => .next (loadImage src s)
  | .loaded | .running | .failed _ => .refused .loadNotFresh

/-- The result of the Load that put the run into a phase (R8, R127, R128, R130). -/
def RunPhase.loadResult (p : RunPhase) : Option (Except LoadError Unit) :=
  match p with
  | .loaded => some (.ok ())
  | .failed e => some (.error e)
  | .fresh | .running => none

/-- Reset: the fresh machine (R125). What is still to come from outside, and the count of free values drawn, are not
the machine's and stay. -/
def resetAction (s : State) : State := (State.reset.setSchedule s.schedule).setDraws s.draws

/-- The effect of one action (R6). -/
def act (a : Action) (s : State) : Host.Outcome State Fault Refusal :=
  match a with
  | .step => engineStep s
  | .tick => .next (tick s)
  | .setKey k b => .next (s.setKey k b)
  | .load src => load src s
  | .reset => .next (resetAction s)

/-- The action that comes next: the head of the schedule, a Step when it is empty. Log 3. -/
def State.nextAction (s : State) : Action :=
  match s.schedule with
  | [] => .step
  | a :: _ => a

/-- The state with the next action taken off the schedule. -/
def State.popSchedule (s : State) : State := s.setSchedule s.schedule.tail

/-- `w` stored where the next fetch reads, and everything else that keeps the very next step from running it set
aside: pending actions, a latched fault, a failed Load, a `pc` no fetch can use. It stands for the Load of a
program. Log 5. -/
def State.placeWord (s : State) (w : Word) : State :=
  let at' : Word := if s.pc.toNat ≤ Config.lastFetch then s.pc else 0x0200#16
  let phase' : RunPhase := if s.phase.allowsStep then s.phase else .loaded
  { s with
    pc := at'
    mem := Memory.writeBytes s.mem at'.toNat (wordBytes w)
    fault := none
    phase := phase'
    schedule := [] }

end Sys2Proof.Machine
end

