-- ==== Sys2Proof/Machine/Step.lean ====
section
/-! DEFINITION. One step of the whole machine: the action that comes next acts, to completion (spec 00_scope.md R6,
20_memory.md R40). With nothing scheduled that action is the instruction engine's Step. -/

namespace Sys2Proof.Machine

/-- One step of the whole machine. -/
def step (s : State) : Host.Outcome State Fault Refusal := act s.nextAction s.popSchedule

/-- `s` with the instruction of `nbits` table bits `w` stored where the next step fetches it. -/
def State.withFetchWord (s : State) (nbits w : Nat) : State := s.placeWord (tableWord nbits w)

end Sys2Proof.Machine
end

