-- ==== Sys2Proof/Safety.lean ====
section
/-! DEFINITION. The terms claims are made in: when a Step is enabled, which fields two states share, which states a
run reaches, the spin of R132, and the invariant of R26. -/

namespace Sys2Proof.Machine

/-- The next action is a Step and it is enabled: no fault latched, no failed Load (R66, R131). -/
abbrev StepEnabled (s : State) : Prop :=
  s.nextAction = .step ∧ s.fault = none ∧ s.phase.allowsStep = true

/-- A Step is enabled and its fetch reads `w`: `mem[pc]` is the high byte, `mem[pc+1]` the low one (R34, R35). -/
abbrev Ready (s : State) (w : Word) : Prop :=
  StepEnabled s ∧ s.pc.toNat ≤ 0x0FFE ∧ Memory.read s.mem s.pc.toNat = highByte w ∧
    Memory.read s.mem (s.pc.toNat + 1) = lowByte w

/-- A field of State. -/
inductive Field where
  | V | I | pc | stack | sp | dt | st | opcode | key | fb | mem | fault | phase | schedule | draws
deriving DecidableEq, Repr

/-- The field is the same in both states; memory, through the read of each byte. -/
def SameField (f : Field) (s t : State) : Prop :=
  match f with
  | .V => t.V = s.V
  | .I => t.I = s.I
  | .pc => t.pc = s.pc
  | .stack => t.stack = s.stack
  | .sp => t.sp = s.sp
  | .dt => t.dt = s.dt
  | .st => t.st = s.st
  | .opcode => t.opcode = s.opcode
  | .key => t.key = s.key
  | .fb => t.fb = s.fb
  | .mem => ∀ a, Memory.read t.mem a = Memory.read s.mem a
  | .fault => t.fault = s.fault
  | .phase => t.phase = s.phase
  | .schedule => t.schedule = s.schedule
  | .draws => t.draws = s.draws

/-- The frame: every field outside `fs` is the same in both states. -/
def AgreeOutside (fs : List Field) (s t : State) : Prop := ∀ f, f ∉ fs → SameField f s t

/-- The states a run from Reset reaches, for any schedule of Load, Step, Tick, SetKey and Reset (R6, R131). -/
inductive Reachable : State → Prop where
  | start (l : List Action) : Reachable (State.reset.setSchedule l)
  | next {s t : State} : Reachable s → step s = .next t → Reachable t

/-- A spin: `1nnn` stored at its own address `nnn`, no fault latched (R132 (a)). -/
abbrev Spinning (s : State) : Prop := Ready s (encode (.jp (s.pc.truncate 12)))

/-- The invariant of R26 over all actions, but for its clauses (a), which the type of `sp` holds, and (b) and (f),
which speak of single actions; `emptyBeforeRun` is what makes the stack clause survive a Load. -/
structure RunInvariant (s : State) : Prop where
  /-- R26 (c). -/
  delayZero : s.dt = 0x00#8
  /-- R26 (c). -/
  soundZero : s.st = 0x00#8
  /-- R26 (d). -/
  indexZero : s.I = 0x0000#16
  /-- R26 (e). -/
  screenDark : ∀ i, s.cell i = false
  /-- R26 (g). -/
  pcBound : s.pc.toNat ≤ 0x1002
  /-- R26 (h): each entry in use is the address of a `2nnn`, hence at most 0x0FFE. -/
  returnAddresses : ∀ k (h : k < s.sp.val), (s.stack[k]'(by omega)).toNat ≤ 0x0FFE ∧
    (Memory.read s.mem (s.stack[k]'(by omega)).toNat).toNat / 16 = 2
  /-- No entry is in use before the first Step (R131). -/
  emptyBeforeRun : s.phase ≠ .running → s.sp = 0

end Sys2Proof.Machine
end

