-- ==== Sys2Proof/Certificates/Slice0/Obligations.lean ====
section
/-! DEFINITION. The statements for the provers, from the numbered rules of spec/. Where a clause rests on one of the
spec's own decisions (92_eei_decisions.md) or inferences, the docstring names it and the basis is derived (log 7). -/

open Sys2Proof Sys2Proof.Machine

/-- The effect of an instruction that does not redirect control, on `Exec` and on the Step after a fetch of `w`:
`effect` holds between the states, only `writes` changes in `Exec`; in the Step also the opcode register takes the
word and `pc` advances by 2 (R64), whatever the rest of the state is (no fault being latched). -/
def AdvancingRule (i : Instr) (w : Nat) (writes : List Field) (effect : State → State → Prop) : Prop :=
  (∀ s, ∃ t, exec i s = .next t ∧ effect s t ∧ AgreeOutside writes s t) ∧
  (∀ s, s.fault = none → ∃ t, executeWord (BitVec.ofNat 16 w) s = .next t ∧ effect s t ∧
    t.opcode = BitVec.ofNat 16 w ∧ t.pc = s.pc + 2#16 ∧ AgreeOutside (.pc :: .opcode :: writes) s t)

/-- A skip on condition `cond`: `Exec` adds 2 to `pc` exactly when it holds, the Step adds 4 or 2, nothing else
changes but the opcode register (R64). -/
def SkipRule (i : Instr) (w : Nat) (cond : State → Prop) : Prop :=
  (∀ s, ∃ t, exec i s = .next t ∧ AgreeOutside [.pc] s t ∧
    (cond s → t.pc = s.pc + 2#16) ∧ (¬ cond s → t.pc = s.pc)) ∧
  (∀ s, s.fault = none → ∃ t, executeWord (BitVec.ofNat 16 w) s = .next t ∧ t.opcode = BitVec.ofNat 16 w ∧
    AgreeOutside [.pc, .opcode] s t ∧ (cond s → t.pc = s.pc + 4#16) ∧ (¬ cond s → t.pc = s.pc + 2#16))

/-- Only register `x` may change, and it ends as `result`. -/
def OnlyReg (x : RegIdx) (s t : State) (result : Nat) : Prop :=
  (t.reg x).toNat = result ∧ ∀ r, r ≠ x → t.reg r = s.reg r

/-- The register `x` ends as `result` unless it is VF, and VF ends as `flag`, written last; no other register
changes (R82). -/
def RegAndFlag (x : RegIdx) (s t : State) (result flag : Nat) : Prop :=
  (t.reg 15).toNat = flag ∧ (x ≠ 15 → (t.reg x).toNat = result) ∧ ∀ r, r ≠ x → r ≠ 15 → t.reg r = s.reg r

/-! ## Encoding -/

/-- R45, R46, R47: no bit of an encoding is dropped: decoding the encoded word, or its bytes with anything after
them, gives the instruction back, for every operand of every instruction. -/
def Obligations.DecodeInvertsEncode : Prop :=
  ∀ i : Instr, decodeWord (encode i) = .ok i ∧ ∀ rest, decode (encodeBytes i ++ rest) = .ok (i, rest)

/-- R46, R47: every word that decodes has that one encoding. -/
def Obligations.EncodeInvertsDecode : Prop := ∀ (w : Word) (i : Instr), decodeWord w = .ok i → encode i = w

/-- R50: "a word `w` is the instruction exactly when `(w & mask) == match`"; no two rows overlap. For the 11 rows of
R91, whose words all decode to `Unknown` in the spec, that decode tells them apart by name is the model's form (log 6,
DEDUCED). That fixed nibbles match exactly is the spec's decision D14. -/
def Obligations.DecodeFollowsOpcodeTable : Prop :=
  (∀ (w : Word) (i : Instr), decodeWord w = .ok i → w &&& i.row.mask = i.row.value) ∧
  (∀ (w : Word) (r : OpcodeRow), r ∈ opcodeTable → w &&& r.mask = r.value → ∃ i, decodeWord w = .ok i ∧ i.row = r) ∧
  (∀ (w : Word) (r q : OpcodeRow), r ∈ opcodeTable → q ∈ opcodeTable → w &&& r.mask = r.value →
    w &&& q.mask = q.value → r = q)

/-- R92, R49: the words that are no defined instruction, family by family. Fixed nibbles match exactly by the
spec's decision D14. -/
def Obligations.UnknownWordsByFamily : Prop :=
  ∀ w : Word, isUnknown w = true ↔
    (w.toNat < 0x1000 ∧ w.toNat ≠ 0x00E0 ∧ w.toNat ≠ 0x00EE) ∨
    ((w.toNat / 4096 = 5 ∨ w.toNat / 4096 = 9) ∧ w.toNat % 16 ≠ 0) ∨
    (w.toNat / 4096 = 8 ∧ 8 ≤ w.toNat % 16) ∨ 0xA ≤ w.toNat / 4096

/-- 95_test_vectors.md T-DEC: words written out in the spec and what they decode to. -/
def Obligations.SpecWordsDecode : Prop :=
  decodeWord 0x00E0 = .ok .cls ∧ decodeWord 0x00EE = .ok .ret ∧ decodeWord 0x1ABC = .ok (.jp 0xABC) ∧
  decodeWord 0x2FFF = .ok (.call 0xFFF) ∧ decodeWord 0x3A7F = .ok (.seImm 0xA 0x7F) ∧
  decodeWord 0x4000 = .ok (.sneImm 0 0) ∧ decodeWord 0x5120 = .ok (.seReg 1 2) ∧
  decodeWord 0x6FAB = .ok (.ldImm 0xF 0xAB) ∧ decodeWord 0x8AB7 = .ok (.subn 0xA 0xB) ∧
  decodeWord 0x9AB0 = .ok (.sneReg 0xA 0xB) ∧ isUnknown 0x0000 = true ∧ isUnknown 0x5121 = true ∧
  isUnknown 0x8ABE = true ∧ isUnknown 0xA22A = true

/-- R53 (the spec's decision D8): the line that writes an instruction down is well formed and assembles to its
word; plain `SHR Vx` assembles `y = 0`. -/
def Obligations.ListingAssemblesBack : Prop :=
  (∀ i : Instr, i.listing.wellFormed = true ∧ i.listing.assemble = some (encode i)) ∧
  ∀ x : RegIdx, AsmLine.assemble ⟨.shr, [.reg x.val]⟩ = some (encode (.shr x 0))

/-! ## The instructions -/

/-- R70. -/
def Obligations.ClearDisplay : Prop :=
  AdvancingRule .cls 0x00E0 [.fb] fun _ t => ∀ i, t.cell i = false

/-- R71 with something to return to; that the advance follows Return is the spec's decision D1. -/
def Obligations.ReturnPopsAndResumes : Prop :=
  (∀ s (h : 0 < s.sp.val), ∃ t, exec .ret s = .next t ∧ t.sp.val = s.sp.val - 1 ∧
    t.pc = s.stack[s.sp.val - 1]'(by omega) ∧ AgreeOutside [.sp, .pc] s t) ∧
  (∀ s (h : 0 < s.sp.val), s.fault = none → ∃ t, executeWord 0x00EE s = .next t ∧ t.sp.val = s.sp.val - 1 ∧
    t.pc = s.stack[s.sp.val - 1]'(by omega) + 2#16 ∧ t.opcode = 0x00EE ∧ AgreeOutside [.sp, .pc, .opcode] s t)

/-- R72: no advance follows. -/
def Obligations.JumpSetsPc : Prop :=
  ∀ nnn : BitVec 12,
    (∀ s, ∃ t, exec (.jp nnn) s = .next t ∧ t.pc.toNat = nnn.toNat ∧ AgreeOutside [.pc] s t) ∧
    (∀ s, s.fault = none → ∃ t, executeWord (BitVec.ofNat 16 (0x1000 + nnn.toNat)) s = .next t ∧
      t.pc.toNat = nnn.toNat ∧ t.opcode = BitVec.ofNat 16 (0x1000 + nnn.toNat) ∧ AgreeOutside [.pc, .opcode] s t)

/-- R73 with room on the stack: the address of the Call itself is pushed, no advance follows. The bound of 16 is the
spec's decision D3. -/
def Obligations.CallPushesItsAddress : Prop :=
  ∀ nnn : BitVec 12,
    (∀ s, s.sp.val < 16 → ∃ t, exec (.call nnn) s = .next t ∧ t.pc.toNat = nnn.toNat ∧
      t.sp.val = s.sp.val + 1 ∧ t.stack[s.sp.val]? = some s.pc ∧
      (∀ k, k ≠ s.sp.val → t.stack[k]? = s.stack[k]?) ∧ AgreeOutside [.pc, .sp, .stack] s t) ∧
    (∀ s, s.sp.val < 16 → s.fault = none → ∃ t, executeWord (BitVec.ofNat 16 (0x2000 + nnn.toNat)) s = .next t ∧
      t.pc.toNat = nnn.toNat ∧ t.sp.val = s.sp.val + 1 ∧ t.stack[s.sp.val]? = some s.pc ∧
      (∀ k, k ≠ s.sp.val → t.stack[k]? = s.stack[k]?) ∧
      t.opcode = BitVec.ofNat 16 (0x2000 + nnn.toNat) ∧ AgreeOutside [.pc, .sp, .stack, .opcode] s t)

/-- R75. -/
def Obligations.SkipIfEqualImmediate : Prop :=
  ∀ (x : RegIdx) (kk : Byte),
    SkipRule (.seImm x kk) (0x3000 + 256 * x.val + kk.toNat) fun s => (s.reg x).toNat = kk.toNat

/-- R76; for the same operands and state exactly one of `3xkk` and `4xkk` skips. -/
def Obligations.SkipIfNotEqualImmediate : Prop :=
  ∀ (x : RegIdx) (kk : Byte),
    SkipRule (.sneImm x kk) (0x4000 + 256 * x.val + kk.toNat) fun s => (s.reg x).toNat ≠ kk.toNat

/-- R77; that `5xy1` to `5xyF` are unknown is the spec's decision D14. -/
def Obligations.SkipIfEqualRegister : Prop :=
  (∀ x y : RegIdx, SkipRule (.seReg x y) (0x5000 + 256 * x.val + 16 * y.val) fun s =>
    (s.reg x).toNat = (s.reg y).toNat) ∧
  ∀ (x y : RegIdx) (n : Nat), 1 ≤ n → n ≤ 15 →
    isUnknown (BitVec.ofNat 16 (0x5000 + 256 * x.val + 16 * y.val + n)) = true

/-- R78; that `9xy1` to `9xyF` are unknown is the spec's decision D14. -/
def Obligations.SkipIfNotEqualRegister : Prop :=
  (∀ x y : RegIdx, SkipRule (.sneReg x y) (0x9000 + 256 * x.val + 16 * y.val) fun s =>
    (s.reg x).toNat ≠ (s.reg y).toNat) ∧
  ∀ (x y : RegIdx) (n : Nat), 1 ≤ n → n ≤ 15 →
    isUnknown (BitVec.ofNat 16 (0x9000 + 256 * x.val + 16 * y.val + n)) = true

/-- R80. -/
def Obligations.LoadImmediate : Prop :=
  ∀ (x : RegIdx) (kk : Byte),
    AdvancingRule (.ldImm x kk) (0x6000 + 256 * x.val + kk.toNat) [.V] fun s t => OnlyReg x s t kk.toNat

/-- R81: modulo 256, no flag effect. -/
def Obligations.AddImmediateWrapsWithoutFlag : Prop :=
  ∀ (x : RegIdx) (kk : Byte),
    AdvancingRule (.addImm x kk) (0x7000 + 256 * x.val + kk.toNat) [.V] fun s t =>
      OnlyReg x s t (((s.reg x).toNat + kk.toNat) % 256)

/-- R83. -/
def Obligations.LoadRegister : Prop :=
  ∀ x y : RegIdx, AdvancingRule (.ldReg x y) (0x8000 + 256 * x.val + 16 * y.val) [.V] fun s t =>
    OnlyReg x s t (s.reg y).toNat

/-- R84: bit by bit, VF untouched unless it is the destination. -/
def Obligations.OrBitwise : Prop :=
  ∀ x y : RegIdx, AdvancingRule (.orReg x y) (0x8001 + 256 * x.val + 16 * y.val) [.V] fun s t =>
    (∀ j, (t.reg x).getLsbD j = ((s.reg x).getLsbD j || (s.reg y).getLsbD j)) ∧ ∀ r, r ≠ x → t.reg r = s.reg r

/-- R85: bit by bit, VF untouched unless it is the destination. -/
def Obligations.AndBitwise : Prop :=
  ∀ x y : RegIdx, AdvancingRule (.andReg x y) (0x8002 + 256 * x.val + 16 * y.val) [.V] fun s t =>
    (∀ j, (t.reg x).getLsbD j = ((s.reg x).getLsbD j && (s.reg y).getLsbD j)) ∧ ∀ r, r ≠ x → t.reg r = s.reg r

/-- R86: bit by bit, VF untouched unless it is the destination. -/
def Obligations.XorBitwise : Prop :=
  ∀ x y : RegIdx, AdvancingRule (.xorReg x y) (0x8003 + 256 * x.val + 16 * y.val) [.V] fun s t =>
    (∀ j, (t.reg x).getLsbD j = ((s.reg x).getLsbD j ^^ (s.reg y).getLsbD j)) ∧ ∀ r, r ≠ x → t.reg r = s.reg r

/-- R87: VF is 1 iff the unsigned sum exceeds 255. -/
def Obligations.AddRegistersSetsCarry : Prop :=
  ∀ x y : RegIdx, AdvancingRule (.addReg x y) (0x8004 + 256 * x.val + 16 * y.val) [.V] fun s t =>
    RegAndFlag x s t (((s.reg x).toNat + (s.reg y).toNat) % 256)
      (if 255 < (s.reg x).toNat + (s.reg y).toNat then 1 else 0)

/-- R88: VF is 1 iff no borrow occurred. -/
def Obligations.SubtractSetsNoBorrow : Prop :=
  ∀ x y : RegIdx, AdvancingRule (.sub x y) (0x8005 + 256 * x.val + 16 * y.val) [.V] fun s t =>
    RegAndFlag x s t ((256 + (s.reg x).toNat - (s.reg y).toNat) % 256)
      (if (s.reg y).toNat ≤ (s.reg x).toNat then 1 else 0)

/-- R89: logical, by one; VF is the bit shifted out; every `y` gives the same state. -/
def Obligations.ShiftRightSetsLsb : Prop :=
  ∀ x y : RegIdx, AdvancingRule (.shr x y) (0x8006 + 256 * x.val + 16 * y.val) [.V] fun s t =>
    RegAndFlag x s t ((s.reg x).toNat / 2) ((s.reg x).toNat % 2)

/-- R90: VF is NOT-borrow of `Vy - Vx`. -/
def Obligations.SubtractNegatedSetsNoBorrow : Prop :=
  ∀ x y : RegIdx, AdvancingRule (.subn x y) (0x8007 + 256 * x.val + 16 * y.val) [.V] fun s t =>
    RegAndFlag x s t ((256 + (s.reg y).toNat - (s.reg x).toNat) % 256)
      (if (s.reg x).toNat ≤ (s.reg y).toNat then 1 else 0)

/-- From R91 and R101, which say that a Step that fetches one of the eleven named patterns raises UnknownOpcode with the
opcode register as info and changes nothing else. By R62 and R63 the spec raises it in the decode phase, and `Exec`
raises only the stack faults: that `exec` of the decoded pattern raises it is the model's choice (log 6, DEDUCED). The
state after a fault is the spec's decision D11. -/
def Obligations.NamedPatternsRaiseUnknown : Prop :=
  ∀ (nnn : BitVec 12) (x y : RegIdx) (n : BitVec 4) (i : Instr),
    i ∈ [Instr.undefAnnn nnn, .undefDxyn x y n, .undefEx9E x, .undefExA1 x, .undefFx07 x, .undefFx0A x,
      .undefFx15 x, .undefFx18 x, .undefFx33 x, .undefFx55 x, .undefFx65 x] →
    ∀ s, ∃ t, exec i s = .next t ∧ t.fault = some ⟨.unknownOpcode, s.opcode⟩ ∧ AgreeOutside [.fault] s t

/-- R102, R103: Call on a full stack and Return on an empty one raise their fault with the instruction's address, and
change nothing else. Fail fast is the spec's decision D3. -/
def Obligations.StackFaults : Prop :=
  (∀ (nnn : BitVec 12) s, s.sp.val = 16 →
    ∃ t, exec (.call nnn) s = .next t ∧ t.fault = some ⟨.stackOverflow, s.pc⟩ ∧ AgreeOutside [.fault] s t) ∧
  (∀ s, s.sp.val = 0 →
    ∃ t, exec .ret s = .next t ∧ t.fault = some ⟨.stackUnderflow, s.pc⟩ ∧ AgreeOutside [.fault] s t)

/-- R74: (a) on `Exec`, Return undoes Call's `pc` and `sp`, and only the pushed entry differs; (b) on Steps, a later
Return on the same entry resumes after the Call. Rests on the spec's decision D1. -/
def Obligations.CallReturnContract : Prop :=
  (∀ (nnn : BitVec 12) s, s.sp.val < 16 → ∃ t u, exec (.call nnn) s = .next t ∧ exec .ret t = .next u ∧
    u.pc = s.pc ∧ u.sp = s.sp ∧ u.stack[s.sp.val]? = some s.pc ∧
    (∀ k, k ≠ s.sp.val → u.stack[k]? = s.stack[k]?) ∧ AgreeOutside [.stack] s u) ∧
  (∀ (nnn : BitVec 12) s t u, s.sp.val < 16 → s.fault = none →
    executeWord (BitVec.ofNat 16 (0x2000 + nnn.toNat)) s = .next t →
    u.fault = none → u.sp = t.sp → u.stack[s.sp.val]? = t.stack[s.sp.val]? →
    ∃ v, executeWord 0x00EE u = .next v ∧ v.pc = s.pc + 2#16 ∧ v.sp = s.sp)

/-! ## The instruction cycle and faults -/

/-- R60, R61, R64: a step that fetches the word of an instruction runs `exec` of it, with the opcode register written
before and the advance after, unless the instruction is JP or CALL or raised a fault. The byte order is the spec's
decision D2, the advance after RET its decision D1; the phase and the schedule are the model's (logs 3, 4), and so is
that `exec` runs, and raises, for a pattern of R91 (log 6, DEDUCED). -/
def Obligations.StepRunsDecodedInstruction : Prop :=
  ∀ s w i, Ready s w → decodeWord w = .ok i →
    ∃ t, exec i { s with opcode := w, phase := .running, schedule := s.schedule.tail } = .next t ∧
      step s = .next
        (if t.fault ≠ none ∨ (∃ nnn, i = .jp nnn) ∨ (∃ nnn, i = .call nnn) then t
          else { t with pc := t.pc + 2#16 })

/-- R13, R67: an enabled step that latches no fault moves `pc` in one of four ways, told by the word it executed: by 2;
by 4 on a skip; to `nnn` on Jump and Call; to the popped entry plus 2 on Return. A faulting one leaves `pc`. The last
two rest on the spec's decisions D1 and D11. -/
def Obligations.PcMovesInFourWays : Prop :=
  ∀ s t, StepEnabled s → step s = .next t →
    (t.fault = none →
      (t.pc = s.pc + 2#16 ∧ t.opcode.toNat / 4096 ≠ 1 ∧ t.opcode.toNat / 4096 ≠ 2 ∧ t.opcode ≠ 0x00EE) ∨
      (t.pc = s.pc + 4#16 ∧ t.opcode.toNat / 4096 ∈ [3, 4, 5, 9]) ∨
      (t.pc.toNat = t.opcode.toNat % 4096 ∧ t.opcode.toNat / 4096 ∈ [1, 2]) ∨
      (∃ c, s.stack[s.sp.val - 1]? = some c ∧ 0 < s.sp.val ∧ t.pc = c + 2#16 ∧ t.opcode = 0x00EE)) ∧
    (t.fault ≠ none → t.pc = s.pc)

/-- R62, R101: a step that fetches a word outside the 18 instructions latches UnknownOpcode with the word; `pc` is not
advanced; only the opcode register is written. The state after a fault is the spec's decision D11, the byte order its
D2, the exact fixed nibbles its D14; the phase and the schedule are the model's (logs 3, 4). -/
def Obligations.UnknownWordFaults : Prop :=
  ∀ s w, Ready s w → isUnknown w = true →
    ∃ t, step s = .next t ∧ t.fault = some ⟨.unknownOpcode, w⟩ ∧ t.opcode = w ∧ t.phase = .running ∧
      t.schedule = s.schedule.tail ∧ AgreeOutside [.fault, .opcode, .phase, .schedule] s t

/-- R104: a step with `pc > 0x0FFE` latches FetchOutOfBounds with `pc` and writes nothing else, the opcode register
included. The spec's decision D4; the phase and the schedule are the model's (logs 3, 4). -/
def Obligations.FetchOutOfBoundsFaults : Prop :=
  ∀ s, StepEnabled s → 0x0FFE < s.pc.toNat →
    ∃ t, step s = .next t ∧ t.fault = some ⟨.fetchOutOfBounds, s.pc⟩ ∧ t.phase = .running ∧
      t.schedule = s.schedule.tail ∧ AgreeOutside [.fault, .phase, .schedule] s t

/-- R60, R65: an enabled step always completes, with a next state: no instruction, word or address stops it.
Which action is next, and the phase, are the model's (logs 3, 4). -/
def Obligations.EnabledStepCompletes : Prop := ∀ s, StepEnabled s → ∃ t, step s = .next t

/-- R108, R107: faults are precise: an enabled step that latches a fault has changed nothing but the latch and the
opcode register (and the model's phase and schedule, logs 3, 4), and for FetchOutOfBounds not the opcode register
either. The spec's decisions D11, D3 (stack), D4 (fetch) and D14 (exact fixed nibbles). -/
def Obligations.FaultsArePrecise : Prop :=
  ∀ s t r, StepEnabled s → step s = .next t → t.fault = some r →
    AgreeOutside [.fault, .opcode, .phase, .schedule] s t ∧
    (r.cause = .fetchOutOfBounds → t.opcode = s.opcode ∧ r.info = s.pc ∧ 0x0FFE < s.pc.toNat) ∧
    (r.cause = .unknownOpcode → r.info = t.opcode ∧ isUnknown t.opcode = true) ∧
    (r.cause = .stackOverflow → r.info = s.pc ∧ t.opcode.toNat / 4096 = 2 ∧ s.sp.val = 16) ∧
    (r.cause = .stackUnderflow → r.info = s.pc ∧ t.opcode = 0x00EE ∧ s.sp.val = 0)

/-- R66, R109: with a fault latched Step is not enabled, and no action but Reset clears the latch. The spec's decision
D11; that the disabled Step answers `engineHalted` is the model's form of it (log 4), the schedule log 3. -/
def Obligations.FaultHaltsUntilReset : Prop :=
  ∀ s r, s.fault = some r →
    (s.nextAction = .step → step s = .fault (.engineHalted r)) ∧
    (∀ t, s.nextAction ≠ .reset → step s = .next t → t.fault = some r) ∧
    (s.nextAction = .reset → ∃ t, step s = .next t ∧ t.fault = none)

/-- From R63: what `Exec` may write, over all instructions: `V`, `pc`, `sp`, `stack`, `fb`, and the latch when it
raises; a raise changes nothing but the latch. R63 lets only `2nnn` and `00EE` raise; that `exec` of a pattern of R91
raises too, where the spec raises in the decode phase (R62), is the model's choice (log 6, DEDUCED). -/
def Obligations.ExecWritesOnly : Prop :=
  ∀ i s t, exec i s = .next t →
    AgreeOutside [.V, .pc, .sp, .stack, .fb, .fault] s t ∧
    (t.fault ≠ s.fault → AgreeOutside [.fault] s t ∧
      (i = .ret ∨ (∃ nnn, i = .call nnn) ∨ i.hasOperation = false))

/-- R12, R16, R18, R31: no instruction reads memory, `I`, a timer or a key: replacing them before `Exec` gives the same
result with them replaced. -/
def Obligations.ExecReadsOnlyEngineState : Prop :=
  ∀ i s t (m : List Host.Cell) (ix : Word) (d e : Byte) (k : Vector Bool 16), exec i s = .next t →
    exec i { s with mem := m, I := ix, dt := d, st := e, key := k } =
      .next { t with mem := m, I := ix, dt := d, st := e, key := k }

/-! ## The other agents -/

/-- R112: each timer counts down by 1, floored at 0 on its own, nothing else changes, in every state (also with a
fault latched: the spec's decision D11). -/
def Obligations.TickCountsDown : Prop :=
  ∀ s, ∃ t, act .tick s = .next t ∧ t.dt.toNat = s.dt.toNat - 1 ∧ t.st.toNat = s.st.toNat - 1 ∧
    AgreeOutside [.dt, .st] s t

/-- R116: SetKey writes the one key and nothing else, in every state, and no instruction reads a key: a key set before
`Exec` is as if set after it. -/
def Obligations.SetKeyWritesOneKeyUnread : Prop :=
  (∀ (k : Fin 16) (b : Bool) s, ∃ t, act (.setKey k b) s = .next t ∧ t.keyDown k = b ∧
    (∀ j, j ≠ k → t.keyDown j = s.keyDown j) ∧ AgreeOutside [.key] s t) ∧
  (∀ i s t (k : Fin 16) (b : Bool), exec i s = .next t → exec i (s.setKey k b) = .next (t.setKey k b))

/-- R107: a Tick or a SetKey commutes with a Step: either order gives the same state. -/
def Obligations.TickAndSetKeyCommuteWithStep : Prop :=
  ∀ s t, act .step s = .next t →
    (∃ u v, act .tick s = .next u ∧ act .step u = .next v ∧ act .tick t = .next v) ∧
    ∀ k b, ∃ u v, act (.setKey k b) s = .next u ∧ act .step u = .next v ∧ act (.setKey k b) t = .next v

/-- R125, R25: Reset from any state puts every element at its reset value; `I` is the spec's decision D10, the latch
its D11, the phase and the kept fields the model's (logs 2, 3, 4). -/
def Obligations.ResetPutsEveryElement : Prop :=
  ∀ s, ∃ t, act .reset s = .next t ∧ (∀ x, t.reg x = 0x00#8) ∧ t.I = 0x0000#16 ∧ t.pc = 0x0200#16 ∧
    (∀ (k : Nat) (h : k < 16), t.stack[k]'h = 0x0000#16) ∧ t.sp.val = 0 ∧ t.dt = 0x00#8 ∧ t.st = 0x00#8 ∧
    t.opcode = 0x0000#16 ∧ (∀ k, t.keyDown k = false) ∧ (∀ i, t.cell i = false) ∧ t.fault = none ∧
    t.phase = .fresh ∧
    (∀ a, a < 0x050 ∨ 0x09F < a → Memory.read t.mem a = 0x00#8) ∧
    (∀ (k : Nat) (h : k < 80), Memory.read t.mem (0x050 + k) = Config.font[k]'h)

/-- R126: the reset state itself: the font region holds FONT, every other cell is zero, and stepping it with no Load
fetches 0x0000 and raises UnknownOpcode(0x0000). The last is the spec's own inference; the phase is the model's
(log 4). -/
def Obligations.FreshMachineFaultsOnZeroWord : Prop :=
  (∀ (k : Nat) (h : k < 80), Memory.read State.reset.mem (0x050 + k) = Config.font[k]'h) ∧
  (∀ a, a < 0x050 ∨ 0x09F < a → Memory.read State.reset.mem a = 0x00#8) ∧
  ∃ t, step State.reset = .next t ∧ t.fault = some ⟨.unknownOpcode, 0x0000⟩ ∧
    AgreeOutside [.fault, .phase] State.reset t

/-- R127, R129: a Load of at most 3584 bytes on a machine that has run no Load and no Step returns `ok`, places the
bytes from 0x200 on, and changes nothing else; an empty image changes no byte. The model's choice (log 4, DEDUCED): the
phase, which holds the result `ok` after an empty image too, so that it is no longer fresh; and the premise, phase
fresh, which lets a Tick or a SetKey come before the Load. -/
def Obligations.LoadPlacesImage : Prop :=
  ∀ s (img : List Byte), s.phase = .fresh → Memory.wf s.mem = true → img.length ≤ 3584 →
    ∃ t, act (.load ⟨img, false⟩) s = .next t ∧ t.phase.loadResult = some (.ok ()) ∧
      (∀ (k : Nat) (h : k < img.length), Memory.read t.mem (0x200 + k) = img[k]'h) ∧
      (∀ a, a < 0x200 ∨ 0x200 + img.length ≤ a → Memory.read t.mem a = Memory.read s.mem a) ∧
      AgreeOutside [.mem, .phase] s t

/-- R128: a Load of more than 3584 bytes returns LoadTooLarge; each cell from 0x200 on holds 0x00 or the image byte,
the model says not which (the spec's decision D9, log 2); nothing else changes, the latch included. The model's choice
(log 4, DEDUCED): the premise, phase fresh, which lets a Tick or a SetKey come before the Load (marked unsafe there),
and the phase as the place the result is read from. -/
def Obligations.LoadTooLargeFails : Prop :=
  ∀ s (img : List Byte), s.phase = .fresh → Memory.wf s.mem = true → 3584 < img.length →
    ∃ t, act (.load ⟨img, false⟩) s = .next t ∧ t.phase.loadResult = some (.error .tooLarge) ∧
      (∀ k, k < 3584 → Memory.read t.mem (0x200 + k) = 0x00#8 ∨
        some (Memory.read t.mem (0x200 + k)) = img[k]?) ∧
      (∀ a, a < 0x200 ∨ 0x1000 ≤ a → Memory.read t.mem a = Memory.read s.mem a) ∧
      AgreeOutside [.mem, .phase, .draws] s t

/-- R130: when the byte source fails after delivering `img`, the delivered bytes that fit stand, the rest of memory is
unchanged, and the result is LoadIoError. The model's choice (log 4, DEDUCED): the premise, phase fresh, which lets a
Tick or a SetKey come before the Load (marked unsafe there), and the phase as the place the result is read from. -/
def Obligations.LoadIoErrorKeepsPrefix : Prop :=
  ∀ s (img : List Byte), s.phase = .fresh → Memory.wf s.mem = true →
    ∃ t, act (.load ⟨img, true⟩) s = .next t ∧ t.phase.loadResult = some (.error .ioError) ∧
      (∀ (k : Nat) (h : k < img.length), k < 3584 → Memory.read t.mem (0x200 + k) = img[k]'h) ∧
      (∀ a, a < 0x200 ∨ 0x200 + img.length ≤ a ∨ 0x1000 ≤ a → Memory.read t.mem a = Memory.read s.mem a) ∧
      AgreeOutside [.mem, .phase] s t

/-- R131, R128, R130: a second Load, a Load after the first Step and a Step after a failed Load are refused; after an
enabled Step no Load is allowed. The spec's decisions D9 and D16. The model's choice (log 4, DEDUCED): the phase, the
names of the refusals, and that every Load ends the phase fresh, an empty one too, of which R129 says that the machine
stays fresh. -/
def Obligations.OutOfOrderActionsRefused : Prop :=
  (∀ s src, s.phase ≠ .fresh → act (.load src) s = .refused .loadNotFresh) ∧
  (∀ s src t, act (.load src) s = .next t → t.phase ≠ .fresh) ∧
  (∀ s e, s.phase = .failed e → s.fault = none → act .step s = .refused .stepAfterFailedLoad) ∧
  (∀ s t, act .step s = .next t → t.phase = .running)

/-- R27: who writes each element: any action that completes changes only what the summary of writers allows, and a
Step changes the stack or `sp` only on `2nnn` or `00EE`, the framebuffer only on `00E0`. -/
def Obligations.WritersOfEachElement : Prop :=
  ∀ a s t, act a s = .next t → a ≠ .reset →
    SameField .I s t ∧
    ((∀ src, a ≠ .load src) → SameField .mem s t) ∧
    ((∀ k b, a ≠ .setKey k b) → SameField .key s t) ∧
    (a ≠ .tick → SameField .dt s t ∧ SameField .st s t) ∧
    (a ≠ .step → SameField .V s t ∧ SameField .pc s t ∧ SameField .opcode s t ∧ SameField .fault s t) ∧
    ((a ≠ .step ∨ (t.opcode.toNat / 4096 ≠ 2 ∧ t.opcode ≠ 0x00EE)) →
      SameField .stack s t ∧ SameField .sp s t) ∧
    ((a ≠ .step ∨ t.opcode ≠ 0x00E0) → SameField .fb s t)

/-- R132 (a): a spin is a fixed point: once its first Step has run, every further Step leaves the whole state
unchanged. The notion is the spec's decision D15; the phase and the schedule are the model's (logs 3, 4). -/
def Obligations.SpinIsFixedPoint : Prop :=
  ∀ s, Spinning s → s.schedule = [] →
    ∃ t, step s = .next t ∧ step t = .next t ∧ AgreeOutside [.opcode, .phase] s t

/-! ## Invariants -/

/-- Every step of every agent keeps memory in its canonical form. -/
def Obligations.StepKeepsMemoryCanonical : Prop :=
  ∀ s t, Memory.wf s.mem = true → step s = .next t → Memory.wf t.mem = true

/-- R26 (c), (d), (e), (g), (h): every step of every agent, from every state that meets the invariant, gives a state
that meets it. The invariant is the spec's own inference. -/
def Obligations.StepKeepsRunInvariant : Prop := ∀ s t, RunInvariant s → step s = .next t → RunInvariant t

/-- R26 at Reset, whatever is scheduled; and memory is canonical there. -/
def Obligations.ResetMeetsRunInvariant : Prop :=
  ∀ l, RunInvariant (State.reset.setSchedule l) ∧ Memory.wf (State.reset.setSchedule l).mem = true

/-- R115, R19: in every state a run reaches, under any schedule, the sound signal is off and no pixel is lit. The spec's
own inference. -/
def Obligations.NoSoundNoPixelInAnyRun : Prop :=
  ∀ s, Reachable s → s.soundActive = false ∧ ∀ cx cy, s.pixel cx cy = false
end

