-- ==== Sys2Proof/Laws/Encoding.lean ====
section
/-! SUPPORT. The fields of the words the encoder builds, and the two bytes of a word. -/

namespace Sys2Proof

theorem joinBytes_high_low (w : Word) : joinBytes (highByte w) (lowByte w) = w := by
  apply BitVec.eq_of_toNat_eq
  have := w.isLt
  simp only [joinBytes, highByte, lowByte, BitVec.toNat_append, BitVec.extractLsb'_toNat]
  rw [← Nat.shiftLeft_add_eq_or_of_lt (by omega)]
  simp only [Nat.shiftLeft_eq, Nat.shiftRight_eq_div_pow]
  omega

theorem wordNNN_toNat (f : BitVec 4) (nnn : BitVec 12) :
    (wordNNN f nnn).toNat = 4096 * f.toNat + nnn.toNat := by
  have := nnn.isLt
  simp only [wordNNN, BitVec.toNat_append]
  rw [← Nat.shiftLeft_add_eq_or_of_lt (by omega)]
  simp only [Nat.shiftLeft_eq]; omega

theorem wordXKK_toNat (f : BitVec 4) (x : RegIdx) (kk : Byte) :
    (wordXKK f x kk).toNat = 4096 * f.toNat + 256 * x.val + kk.toNat := by
  have := kk.isLt; have := x.isLt
  have hx : (BitVec.ofFin (w := 4) x).toNat = x.val := rfl
  simp only [wordXKK, BitVec.toNat_append, hx]
  rw [← Nat.shiftLeft_add_eq_or_of_lt (by omega), ← Nat.shiftLeft_add_eq_or_of_lt (by omega)]
  simp only [Nat.shiftLeft_eq]; omega

theorem wordXYN_toNat (f : BitVec 4) (x y : RegIdx) (n : BitVec 4) :
    (wordXYN f x y n).toNat = 4096 * f.toNat + 256 * x.val + 16 * y.val + n.toNat := by
  have := n.isLt; have := x.isLt; have := y.isLt
  have hx : (BitVec.ofFin (w := 4) x).toNat = x.val := rfl
  have hy : (BitVec.ofFin (w := 4) y).toNat = y.val := rfl
  simp only [wordXYN, BitVec.toNat_append, hx, hy]
  rw [← Nat.shiftLeft_add_eq_or_of_lt (by omega), ← Nat.shiftLeft_add_eq_or_of_lt (by omega),
    ← Nat.shiftLeft_add_eq_or_of_lt (by omega)]
  simp only [Nat.shiftLeft_eq]; omega

/-! ## The fixed nibbles of a built word under the masks of R50 and R91 -/

theorem wordNNN_and_mask (f : BitVec 4) (nnn : BitVec 12) :
    wordNNN f nnn &&& 0xF000#16 = (f &&& 0xF#4) ++ (0x000#12 : BitVec 12) := by
  change (f ++ nnn) &&& (0xF#4 ++ (0x000#12 : BitVec 12)) = _
  rw [BitVec.and_append, BitVec.and_zero]

theorem wordXKK_and_mask (f : BitVec 4) (x : RegIdx) (kk : Byte) (m : Byte) :
    wordXKK f x kk &&& (0xF#4 ++ 0x0#4 ++ m : BitVec 16) = (f &&& 0xF#4) ++ 0x0#4 ++ (kk &&& m) := by
  rw [wordXKK, BitVec.and_append, BitVec.and_append, BitVec.and_zero]

theorem wordXYN_and_mask (f : BitVec 4) (x y : RegIdx) (n m : BitVec 4) :
    wordXYN f x y n &&& (0xF#4 ++ 0x0#4 ++ 0x0#4 ++ m : BitVec 16) =
      (f &&& 0xF#4) ++ 0x0#4 ++ 0x0#4 ++ (n &&& m) := by
  rw [wordXYN, BitVec.and_append, BitVec.and_append, BitVec.and_append, BitVec.and_zero, BitVec.and_zero]

theorem fieldF_toNat (w : Word) : (fieldF w).toNat = w.toNat / 4096 := by
  have := w.isLt
  simp only [fieldF, BitVec.extractLsb'_toNat, Nat.shiftRight_eq_div_pow]; omega

theorem fieldX_val (w : Word) : (fieldX w).val = w.toNat / 256 % 16 := by
  have h : (fieldX w).val = (w.extractLsb' 8 4).toNat := rfl
  rw [h, BitVec.extractLsb'_toNat, Nat.shiftRight_eq_div_pow]

theorem fieldY_val (w : Word) : (fieldY w).val = w.toNat / 16 % 16 := by
  have h : (fieldY w).val = (w.extractLsb' 4 4).toNat := rfl
  rw [h, BitVec.extractLsb'_toNat, Nat.shiftRight_eq_div_pow]

theorem fieldN_toNat (w : Word) : (fieldN w).toNat = w.toNat % 16 := by
  simp [fieldN, BitVec.extractLsb'_toNat]

theorem fieldKK_toNat (w : Word) : (fieldKK w).toNat = w.toNat % 256 := by
  simp [fieldKK, BitVec.extractLsb'_toNat]

theorem fieldNNN_toNat (w : Word) : (fieldNNN w).toNat = w.toNat % 4096 := by
  simp [fieldNNN, BitVec.extractLsb'_toNat]

/-! ## Built words as numbers, and their fields -/

theorem wordNNN_eq_ofNat (f : BitVec 4) (nnn : BitVec 12) :
    BitVec.ofNat 16 (4096 * f.toNat + nnn.toNat) = wordNNN f nnn := by
  rw [← wordNNN_toNat, BitVec.ofNat_toNat, BitVec.setWidth_eq]

theorem wordXKK_eq_ofNat (f : BitVec 4) (x : RegIdx) (kk : Byte) :
    BitVec.ofNat 16 (4096 * f.toNat + 256 * x.val + kk.toNat) = wordXKK f x kk := by
  rw [← wordXKK_toNat, BitVec.ofNat_toNat, BitVec.setWidth_eq]

theorem wordXYN_eq_ofNat (f : BitVec 4) (x y : RegIdx) (n : BitVec 4) :
    BitVec.ofNat 16 (4096 * f.toNat + 256 * x.val + 16 * y.val + n.toNat) = wordXYN f x y n := by
  rw [← wordXYN_toNat, BitVec.ofNat_toNat, BitVec.setWidth_eq]

@[simp] theorem fieldF_wordNNN (f : BitVec 4) (nnn : BitVec 12) : fieldF (wordNNN f nnn) = f := by
  apply BitVec.eq_of_toNat_eq; rw [fieldF_toNat, wordNNN_toNat]; omega

@[simp] theorem fieldNNN_wordNNN (f : BitVec 4) (nnn : BitVec 12) : fieldNNN (wordNNN f nnn) = nnn := by
  apply BitVec.eq_of_toNat_eq; rw [fieldNNN_toNat, wordNNN_toNat]; omega

@[simp] theorem fieldF_wordXKK (f : BitVec 4) (x : RegIdx) (kk : Byte) : fieldF (wordXKK f x kk) = f := by
  apply BitVec.eq_of_toNat_eq; rw [fieldF_toNat, wordXKK_toNat]; omega

@[simp] theorem fieldX_wordXKK (f : BitVec 4) (x : RegIdx) (kk : Byte) : fieldX (wordXKK f x kk) = x := by
  apply Fin.ext; rw [fieldX_val, wordXKK_toNat]; omega

@[simp] theorem fieldKK_wordXKK (f : BitVec 4) (x : RegIdx) (kk : Byte) : fieldKK (wordXKK f x kk) = kk := by
  apply BitVec.eq_of_toNat_eq; rw [fieldKK_toNat, wordXKK_toNat]; omega

@[simp] theorem fieldF_wordXYN (f : BitVec 4) (x y : RegIdx) (n : BitVec 4) : fieldF (wordXYN f x y n) = f := by
  apply BitVec.eq_of_toNat_eq; rw [fieldF_toNat, wordXYN_toNat]; omega

@[simp] theorem fieldX_wordXYN (f : BitVec 4) (x y : RegIdx) (n : BitVec 4) : fieldX (wordXYN f x y n) = x := by
  apply Fin.ext; rw [fieldX_val, wordXYN_toNat]; omega

@[simp] theorem fieldY_wordXYN (f : BitVec 4) (x y : RegIdx) (n : BitVec 4) : fieldY (wordXYN f x y n) = y := by
  apply Fin.ext; rw [fieldY_val, wordXYN_toNat]; omega

@[simp] theorem fieldN_wordXYN (f : BitVec 4) (x y : RegIdx) (n : BitVec 4) : fieldN (wordXYN f x y n) = n := by
  apply BitVec.eq_of_toNat_eq; rw [fieldN_toNat, wordXYN_toNat]; omega

end Sys2Proof
end

