-- ==== Sys2Proof/Laws/Memory.lean ====
section
/-! SUPPORT. Memory: a read after a write, and that every memory operation keeps the canonical form. -/

namespace Sys2Proof.Machine

theorem Memory.wf_cons {k : Nat} {b : Byte} {rest : List Host.Cell} :
    Memory.wf ((k, b) :: rest) = true ↔
      k < Config.memSize ∧ b ≠ Memory.unlisted k ∧ (∀ c ∈ rest, k < c.1) ∧ Memory.wf rest = true := by
  simp [Memory.wf, and_assoc]

/-- An address below every listed one reads as unlisted. -/
theorem Memory.read_of_lt {m : List Host.Cell} {a : Nat} (h : ∀ c ∈ m, a < c.1) :
    Memory.read m a = Memory.unlisted a := by
  induction m with
  | nil => rfl
  | cons c rest ih =>
    obtain ⟨k, b⟩ := c
    have hk : a < k := h (k, b) (by simp)
    have hne : ¬ k = a := by omega
    simp only [Memory.read, if_neg hne]
    exact ih fun c hc => h c (by simp [hc])

/-- What a write lists lies at its own address or was listed before. -/
theorem Memory.mem_write {m : List Host.Cell} {a : Nat} {b : Byte} {c : Host.Cell}
    (hc : c ∈ Memory.write m a b) : c.1 = a ∨ c ∈ m := by
  induction m with
  | nil => simp only [Memory.write] at hc; split at hc <;> simp_all
  | cons d rest ih =>
    obtain ⟨k, v⟩ := d
    simp only [Memory.write] at hc
    split at hc
    · split at hc <;> simp_all
      grind
    · split at hc
      · split at hc <;> simp_all
        grind
      · rcases List.mem_cons.mp hc with h | h
        · exact .inr (by simp [h])
        · exact (ih h).imp_right (by intro h; simp [h])

/-- A write inside the 4096 cells keeps the canonical form. -/
theorem Memory.wf_write {m : List Host.Cell} {a : Nat} {b : Byte} (ha : a < Config.memSize)
    (hm : Memory.wf m = true) : Memory.wf (Memory.write m a b) = true := by
  induction m with
  | nil => simp only [Memory.write]; split <;> simp_all [Memory.wf]
  | cons d rest ih =>
    obtain ⟨k, v⟩ := d
    obtain ⟨hk, hv, hlt, hr⟩ := Memory.wf_cons.mp hm
    simp only [Memory.write]
    split
    · rename_i hak
      split
      · exact hm
      · refine Memory.wf_cons.mpr ⟨ha, by assumption, ?_, hm⟩
        intro c hc
        rcases List.mem_cons.mp hc with h | h
        · simpa [h] using hak
        · exact lt_trans hak (hlt c h)
    · split
      · rename_i hak; subst hak
        split
        · exact hr
        · exact Memory.wf_cons.mpr ⟨ha, by assumption, hlt, hr⟩
      · refine Memory.wf_cons.mpr ⟨hk, hv, ?_, ih hr⟩
        intro c hc
        rcases Memory.mem_write hc with h | h
        · omega
        · exact hlt c h

/-- Reading after a write: the written byte at its address, the old byte elsewhere. -/
theorem Memory.read_write {m : List Host.Cell} {a : Nat} {b : Byte} (hm : Memory.wf m = true) (a' : Nat) :
    Memory.read (Memory.write m a b) a' = if a' = a then b else Memory.read m a' := by
  induction m with
  | nil =>
    simp only [Memory.write]
    split <;> simp only [Memory.read] <;> split <;> simp_all
    grind
  | cons d rest ih =>
    obtain ⟨k, v⟩ := d
    obtain ⟨hk, hv, hlt, hr⟩ := Memory.wf_cons.mp hm
    simp only [Memory.write]
    split
    · rename_i hak
      have hlow : Memory.read ((k, v) :: rest) a = Memory.unlisted a :=
        Memory.read_of_lt fun c hc => by
          rcases List.mem_cons.mp hc with h | h
          · simpa [h] using hak
          · exact lt_trans hak (hlt c h)
      split
      · rename_i hb
        by_cases h : a' = a
        · subst h; rw [if_pos rfl, hlow, hb]
        · rw [if_neg h]
      · by_cases h : a' = a
        · simp [Memory.read, h]
        · have h' : ¬ a = a' := fun e => h e.symm
          rw [if_neg h, Memory.read, if_neg h']
    · split
      · rename_i hak; subst hak
        by_cases h : a' = a
        · subst h
          rw [if_pos rfl]
          split
          · rename_i hb; rw [Memory.read_of_lt hlt, hb]
          · simp [Memory.read]
        · have h' : ¬ a = a' := fun e => h e.symm
          rw [if_neg h]
          split <;> simp [Memory.read, h']
      · by_cases h : k = a'
        · have : ¬ a' = a := by omega
          simp [Memory.read, h, this]
        · simp only [Memory.read, if_neg h]
          exact ih hr

theorem Memory.wf_writeBytes {bytes : List Byte} {m : List Host.Cell} {a : Nat}
    (ha : a + bytes.length ≤ Config.memSize) (hm : Memory.wf m = true) :
    Memory.wf (Memory.writeBytes m a bytes) = true := by
  induction bytes generalizing m a with
  | nil => exact hm
  | cons b rest ih =>
    simp only [List.length_cons] at ha
    exact ih (by omega) (Memory.wf_write (by omega) hm)

/-- Reading after writing a run of bytes from `a` on. -/
theorem Memory.read_writeBytes {bytes : List Byte} {m : List Host.Cell} {a : Nat}
    (ha : a + bytes.length ≤ Config.memSize) (hm : Memory.wf m = true) (a' : Nat) :
    Memory.read (Memory.writeBytes m a bytes) a' =
      if h : a ≤ a' ∧ a' < a + bytes.length then bytes[a' - a]'(by omega) else Memory.read m a' := by
  induction bytes generalizing m a with
  | nil => simp only [Memory.writeBytes, List.length_nil]; split <;> first | omega | rfl
  | cons b rest ih =>
    simp only [List.length_cons] at ha ⊢
    rw [Memory.writeBytes, ih (by omega) (Memory.wf_write (by omega) hm), Memory.read_write hm]
    by_cases h1 : a' = a
    · subst h1; simp
    · by_cases h2 : a ≤ a' ∧ a' < a + (rest.length + 1)
      · have h3 : a + 1 ≤ a' ∧ a' < a + 1 + rest.length := by omega
        rw [dif_pos h3, dif_pos h2]
        have : a' - a = a' - (a + 1) + 1 := by omega
        simp [this]
      · have h3 : ¬ (a + 1 ≤ a' ∧ a' < a + 1 + rest.length) := by omega
        rw [dif_neg h3, dif_neg h2, if_neg h1]

/-- Reading inside the 4096 cells: the bytes at the addresses (R34). -/
theorem Memory.readBytes_two {m : List Host.Cell} {a : Nat} :
    Memory.readBytes m a 2 =
      if a + 2 ≤ Config.memSize then some [Memory.read m a, Memory.read m (a + 1)] else none := by
  simp [Memory.readBytes, List.range_succ]

theorem length_failedLoadBytes (d o : Nat) (l : List Byte) : (failedLoadBytes d o l).length = l.length := by
  induction l generalizing o with
  | nil => rfl
  | cons b rest ih => simp [failedLoadBytes, ih]

/-- After LoadTooLarge each offset holds 0x00 or the image byte (R128). -/
theorem failedLoadBytes_getElem (d o : Nat) (l : List Byte) (k : Nat) (h : k < (failedLoadBytes d o l).length) :
    (failedLoadBytes d o l)[k] = 0x00#8 ∨ some ((failedLoadBytes d o l)[k]) = l[k]? := by
  induction l generalizing o k with
  | nil => simp [failedLoadBytes] at h
  | cons b rest ih =>
    cases k with
    | zero => simp only [failedLoadBytes, List.getElem_cons_zero]; split <;> simp
    | succ k =>
      simp only [failedLoadBytes, List.getElem_cons_succ, List.getElem?_cons_succ]
      exact ih (o + 1) k _

end Sys2Proof.Machine
end

