-- ==== Sys2Proof/Laws/State.lean ====
section
/-! SUPPORT. One lemma per field per update of State, each true by rfl, so that no later proof unfolds a record
update. -/

namespace Sys2Proof.Machine

@[simp] theorem State.setReg_V (s : State) (x : RegIdx) (b : Byte) :
    (s.setReg x b).V = s.V.set x.val b x.isLt := rfl
@[simp] theorem State.setReg_I (s : State) (x : RegIdx) (b : Byte) :
    (s.setReg x b).I = s.I := rfl
@[simp] theorem State.setReg_pc (s : State) (x : RegIdx) (b : Byte) :
    (s.setReg x b).pc = s.pc := rfl
@[simp] theorem State.setReg_stack (s : State) (x : RegIdx) (b : Byte) :
    (s.setReg x b).stack = s.stack := rfl
@[simp] theorem State.setReg_sp (s : State) (x : RegIdx) (b : Byte) :
    (s.setReg x b).sp = s.sp := rfl
@[simp] theorem State.setReg_dt (s : State) (x : RegIdx) (b : Byte) :
    (s.setReg x b).dt = s.dt := rfl
@[simp] theorem State.setReg_st (s : State) (x : RegIdx) (b : Byte) :
    (s.setReg x b).st = s.st := rfl
@[simp] theorem State.setReg_opcode (s : State) (x : RegIdx) (b : Byte) :
    (s.setReg x b).opcode = s.opcode := rfl
@[simp] theorem State.setReg_key (s : State) (x : RegIdx) (b : Byte) :
    (s.setReg x b).key = s.key := rfl
@[simp] theorem State.setReg_fb (s : State) (x : RegIdx) (b : Byte) :
    (s.setReg x b).fb = s.fb := rfl
@[simp] theorem State.setReg_mem (s : State) (x : RegIdx) (b : Byte) :
    (s.setReg x b).mem = s.mem := rfl
@[simp] theorem State.setReg_fault (s : State) (x : RegIdx) (b : Byte) :
    (s.setReg x b).fault = s.fault := rfl
@[simp] theorem State.setReg_phase (s : State) (x : RegIdx) (b : Byte) :
    (s.setReg x b).phase = s.phase := rfl
@[simp] theorem State.setReg_schedule (s : State) (x : RegIdx) (b : Byte) :
    (s.setReg x b).schedule = s.schedule := rfl
@[simp] theorem State.setReg_draws (s : State) (x : RegIdx) (b : Byte) :
    (s.setReg x b).draws = s.draws := rfl

@[simp] theorem State.setPc_V (s : State) (p : Word) :
    (s.setPc p).V = s.V := rfl
@[simp] theorem State.setPc_I (s : State) (p : Word) :
    (s.setPc p).I = s.I := rfl
@[simp] theorem State.setPc_pc (s : State) (p : Word) :
    (s.setPc p).pc = p := rfl
@[simp] theorem State.setPc_stack (s : State) (p : Word) :
    (s.setPc p).stack = s.stack := rfl
@[simp] theorem State.setPc_sp (s : State) (p : Word) :
    (s.setPc p).sp = s.sp := rfl
@[simp] theorem State.setPc_dt (s : State) (p : Word) :
    (s.setPc p).dt = s.dt := rfl
@[simp] theorem State.setPc_st (s : State) (p : Word) :
    (s.setPc p).st = s.st := rfl
@[simp] theorem State.setPc_opcode (s : State) (p : Word) :
    (s.setPc p).opcode = s.opcode := rfl
@[simp] theorem State.setPc_key (s : State) (p : Word) :
    (s.setPc p).key = s.key := rfl
@[simp] theorem State.setPc_fb (s : State) (p : Word) :
    (s.setPc p).fb = s.fb := rfl
@[simp] theorem State.setPc_mem (s : State) (p : Word) :
    (s.setPc p).mem = s.mem := rfl
@[simp] theorem State.setPc_fault (s : State) (p : Word) :
    (s.setPc p).fault = s.fault := rfl
@[simp] theorem State.setPc_phase (s : State) (p : Word) :
    (s.setPc p).phase = s.phase := rfl
@[simp] theorem State.setPc_schedule (s : State) (p : Word) :
    (s.setPc p).schedule = s.schedule := rfl
@[simp] theorem State.setPc_draws (s : State) (p : Word) :
    (s.setPc p).draws = s.draws := rfl

@[simp] theorem State.advancePc_V (s : State) :
    s.advancePc.V = s.V := rfl
@[simp] theorem State.advancePc_I (s : State) :
    s.advancePc.I = s.I := rfl
@[simp] theorem State.advancePc_pc (s : State) :
    s.advancePc.pc = s.pc + 2#16 := rfl
@[simp] theorem State.advancePc_stack (s : State) :
    s.advancePc.stack = s.stack := rfl
@[simp] theorem State.advancePc_sp (s : State) :
    s.advancePc.sp = s.sp := rfl
@[simp] theorem State.advancePc_dt (s : State) :
    s.advancePc.dt = s.dt := rfl
@[simp] theorem State.advancePc_st (s : State) :
    s.advancePc.st = s.st := rfl
@[simp] theorem State.advancePc_opcode (s : State) :
    s.advancePc.opcode = s.opcode := rfl
@[simp] theorem State.advancePc_key (s : State) :
    s.advancePc.key = s.key := rfl
@[simp] theorem State.advancePc_fb (s : State) :
    s.advancePc.fb = s.fb := rfl
@[simp] theorem State.advancePc_mem (s : State) :
    s.advancePc.mem = s.mem := rfl
@[simp] theorem State.advancePc_fault (s : State) :
    s.advancePc.fault = s.fault := rfl
@[simp] theorem State.advancePc_phase (s : State) :
    s.advancePc.phase = s.phase := rfl
@[simp] theorem State.advancePc_schedule (s : State) :
    s.advancePc.schedule = s.schedule := rfl
@[simp] theorem State.advancePc_draws (s : State) :
    s.advancePc.draws = s.draws := rfl

@[simp] theorem State.setOpcode_V (s : State) (w : Word) :
    (s.setOpcode w).V = s.V := rfl
@[simp] theorem State.setOpcode_I (s : State) (w : Word) :
    (s.setOpcode w).I = s.I := rfl
@[simp] theorem State.setOpcode_pc (s : State) (w : Word) :
    (s.setOpcode w).pc = s.pc := rfl
@[simp] theorem State.setOpcode_stack (s : State) (w : Word) :
    (s.setOpcode w).stack = s.stack := rfl
@[simp] theorem State.setOpcode_sp (s : State) (w : Word) :
    (s.setOpcode w).sp = s.sp := rfl
@[simp] theorem State.setOpcode_dt (s : State) (w : Word) :
    (s.setOpcode w).dt = s.dt := rfl
@[simp] theorem State.setOpcode_st (s : State) (w : Word) :
    (s.setOpcode w).st = s.st := rfl
@[simp] theorem State.setOpcode_opcode (s : State) (w : Word) :
    (s.setOpcode w).opcode = w := rfl
@[simp] theorem State.setOpcode_key (s : State) (w : Word) :
    (s.setOpcode w).key = s.key := rfl
@[simp] theorem State.setOpcode_fb (s : State) (w : Word) :
    (s.setOpcode w).fb = s.fb := rfl
@[simp] theorem State.setOpcode_mem (s : State) (w : Word) :
    (s.setOpcode w).mem = s.mem := rfl
@[simp] theorem State.setOpcode_fault (s : State) (w : Word) :
    (s.setOpcode w).fault = s.fault := rfl
@[simp] theorem State.setOpcode_phase (s : State) (w : Word) :
    (s.setOpcode w).phase = s.phase := rfl
@[simp] theorem State.setOpcode_schedule (s : State) (w : Word) :
    (s.setOpcode w).schedule = s.schedule := rfl
@[simp] theorem State.setOpcode_draws (s : State) (w : Word) :
    (s.setOpcode w).draws = s.draws := rfl

@[simp] theorem State.clearFb_V (s : State) :
    s.clearFb.V = s.V := rfl
@[simp] theorem State.clearFb_I (s : State) :
    s.clearFb.I = s.I := rfl
@[simp] theorem State.clearFb_pc (s : State) :
    s.clearFb.pc = s.pc := rfl
@[simp] theorem State.clearFb_stack (s : State) :
    s.clearFb.stack = s.stack := rfl
@[simp] theorem State.clearFb_sp (s : State) :
    s.clearFb.sp = s.sp := rfl
@[simp] theorem State.clearFb_dt (s : State) :
    s.clearFb.dt = s.dt := rfl
@[simp] theorem State.clearFb_st (s : State) :
    s.clearFb.st = s.st := rfl
@[simp] theorem State.clearFb_opcode (s : State) :
    s.clearFb.opcode = s.opcode := rfl
@[simp] theorem State.clearFb_key (s : State) :
    s.clearFb.key = s.key := rfl
@[simp] theorem State.clearFb_fb (s : State) :
    s.clearFb.fb = Vector.replicate 32 (Vector.replicate 64 false) := rfl
@[simp] theorem State.clearFb_mem (s : State) :
    s.clearFb.mem = s.mem := rfl
@[simp] theorem State.clearFb_fault (s : State) :
    s.clearFb.fault = s.fault := rfl
@[simp] theorem State.clearFb_phase (s : State) :
    s.clearFb.phase = s.phase := rfl
@[simp] theorem State.clearFb_schedule (s : State) :
    s.clearFb.schedule = s.schedule := rfl
@[simp] theorem State.clearFb_draws (s : State) :
    s.clearFb.draws = s.draws := rfl

@[simp] theorem State.setTimers_V (s : State) (d e : Byte) :
    (s.setTimers d e).V = s.V := rfl
@[simp] theorem State.setTimers_I (s : State) (d e : Byte) :
    (s.setTimers d e).I = s.I := rfl
@[simp] theorem State.setTimers_pc (s : State) (d e : Byte) :
    (s.setTimers d e).pc = s.pc := rfl
@[simp] theorem State.setTimers_stack (s : State) (d e : Byte) :
    (s.setTimers d e).stack = s.stack := rfl
@[simp] theorem State.setTimers_sp (s : State) (d e : Byte) :
    (s.setTimers d e).sp = s.sp := rfl
@[simp] theorem State.setTimers_dt (s : State) (d e : Byte) :
    (s.setTimers d e).dt = d := rfl
@[simp] theorem State.setTimers_st (s : State) (d e : Byte) :
    (s.setTimers d e).st = e := rfl
@[simp] theorem State.setTimers_opcode (s : State) (d e : Byte) :
    (s.setTimers d e).opcode = s.opcode := rfl
@[simp] theorem State.setTimers_key (s : State) (d e : Byte) :
    (s.setTimers d e).key = s.key := rfl
@[simp] theorem State.setTimers_fb (s : State) (d e : Byte) :
    (s.setTimers d e).fb = s.fb := rfl
@[simp] theorem State.setTimers_mem (s : State) (d e : Byte) :
    (s.setTimers d e).mem = s.mem := rfl
@[simp] theorem State.setTimers_fault (s : State) (d e : Byte) :
    (s.setTimers d e).fault = s.fault := rfl
@[simp] theorem State.setTimers_phase (s : State) (d e : Byte) :
    (s.setTimers d e).phase = s.phase := rfl
@[simp] theorem State.setTimers_schedule (s : State) (d e : Byte) :
    (s.setTimers d e).schedule = s.schedule := rfl
@[simp] theorem State.setTimers_draws (s : State) (d e : Byte) :
    (s.setTimers d e).draws = s.draws := rfl

@[simp] theorem State.setKey_V (s : State) (k : Fin 16) (b : Bool) :
    (s.setKey k b).V = s.V := rfl
@[simp] theorem State.setKey_I (s : State) (k : Fin 16) (b : Bool) :
    (s.setKey k b).I = s.I := rfl
@[simp] theorem State.setKey_pc (s : State) (k : Fin 16) (b : Bool) :
    (s.setKey k b).pc = s.pc := rfl
@[simp] theorem State.setKey_stack (s : State) (k : Fin 16) (b : Bool) :
    (s.setKey k b).stack = s.stack := rfl
@[simp] theorem State.setKey_sp (s : State) (k : Fin 16) (b : Bool) :
    (s.setKey k b).sp = s.sp := rfl
@[simp] theorem State.setKey_dt (s : State) (k : Fin 16) (b : Bool) :
    (s.setKey k b).dt = s.dt := rfl
@[simp] theorem State.setKey_st (s : State) (k : Fin 16) (b : Bool) :
    (s.setKey k b).st = s.st := rfl
@[simp] theorem State.setKey_opcode (s : State) (k : Fin 16) (b : Bool) :
    (s.setKey k b).opcode = s.opcode := rfl
@[simp] theorem State.setKey_key (s : State) (k : Fin 16) (b : Bool) :
    (s.setKey k b).key = s.key.set k.val b k.isLt := rfl
@[simp] theorem State.setKey_fb (s : State) (k : Fin 16) (b : Bool) :
    (s.setKey k b).fb = s.fb := rfl
@[simp] theorem State.setKey_mem (s : State) (k : Fin 16) (b : Bool) :
    (s.setKey k b).mem = s.mem := rfl
@[simp] theorem State.setKey_fault (s : State) (k : Fin 16) (b : Bool) :
    (s.setKey k b).fault = s.fault := rfl
@[simp] theorem State.setKey_phase (s : State) (k : Fin 16) (b : Bool) :
    (s.setKey k b).phase = s.phase := rfl
@[simp] theorem State.setKey_schedule (s : State) (k : Fin 16) (b : Bool) :
    (s.setKey k b).schedule = s.schedule := rfl
@[simp] theorem State.setKey_draws (s : State) (k : Fin 16) (b : Bool) :
    (s.setKey k b).draws = s.draws := rfl

@[simp] theorem State.setMem_V (s : State) (m : List Host.Cell) :
    (s.setMem m).V = s.V := rfl
@[simp] theorem State.setMem_I (s : State) (m : List Host.Cell) :
    (s.setMem m).I = s.I := rfl
@[simp] theorem State.setMem_pc (s : State) (m : List Host.Cell) :
    (s.setMem m).pc = s.pc := rfl
@[simp] theorem State.setMem_stack (s : State) (m : List Host.Cell) :
    (s.setMem m).stack = s.stack := rfl
@[simp] theorem State.setMem_sp (s : State) (m : List Host.Cell) :
    (s.setMem m).sp = s.sp := rfl
@[simp] theorem State.setMem_dt (s : State) (m : List Host.Cell) :
    (s.setMem m).dt = s.dt := rfl
@[simp] theorem State.setMem_st (s : State) (m : List Host.Cell) :
    (s.setMem m).st = s.st := rfl
@[simp] theorem State.setMem_opcode (s : State) (m : List Host.Cell) :
    (s.setMem m).opcode = s.opcode := rfl
@[simp] theorem State.setMem_key (s : State) (m : List Host.Cell) :
    (s.setMem m).key = s.key := rfl
@[simp] theorem State.setMem_fb (s : State) (m : List Host.Cell) :
    (s.setMem m).fb = s.fb := rfl
@[simp] theorem State.setMem_mem (s : State) (m : List Host.Cell) :
    (s.setMem m).mem = m := rfl
@[simp] theorem State.setMem_fault (s : State) (m : List Host.Cell) :
    (s.setMem m).fault = s.fault := rfl
@[simp] theorem State.setMem_phase (s : State) (m : List Host.Cell) :
    (s.setMem m).phase = s.phase := rfl
@[simp] theorem State.setMem_schedule (s : State) (m : List Host.Cell) :
    (s.setMem m).schedule = s.schedule := rfl
@[simp] theorem State.setMem_draws (s : State) (m : List Host.Cell) :
    (s.setMem m).draws = s.draws := rfl

@[simp] theorem State.setPhase_V (s : State) (p : RunPhase) :
    (s.setPhase p).V = s.V := rfl
@[simp] theorem State.setPhase_I (s : State) (p : RunPhase) :
    (s.setPhase p).I = s.I := rfl
@[simp] theorem State.setPhase_pc (s : State) (p : RunPhase) :
    (s.setPhase p).pc = s.pc := rfl
@[simp] theorem State.setPhase_stack (s : State) (p : RunPhase) :
    (s.setPhase p).stack = s.stack := rfl
@[simp] theorem State.setPhase_sp (s : State) (p : RunPhase) :
    (s.setPhase p).sp = s.sp := rfl
@[simp] theorem State.setPhase_dt (s : State) (p : RunPhase) :
    (s.setPhase p).dt = s.dt := rfl
@[simp] theorem State.setPhase_st (s : State) (p : RunPhase) :
    (s.setPhase p).st = s.st := rfl
@[simp] theorem State.setPhase_opcode (s : State) (p : RunPhase) :
    (s.setPhase p).opcode = s.opcode := rfl
@[simp] theorem State.setPhase_key (s : State) (p : RunPhase) :
    (s.setPhase p).key = s.key := rfl
@[simp] theorem State.setPhase_fb (s : State) (p : RunPhase) :
    (s.setPhase p).fb = s.fb := rfl
@[simp] theorem State.setPhase_mem (s : State) (p : RunPhase) :
    (s.setPhase p).mem = s.mem := rfl
@[simp] theorem State.setPhase_fault (s : State) (p : RunPhase) :
    (s.setPhase p).fault = s.fault := rfl
@[simp] theorem State.setPhase_phase (s : State) (p : RunPhase) :
    (s.setPhase p).phase = p := rfl
@[simp] theorem State.setPhase_schedule (s : State) (p : RunPhase) :
    (s.setPhase p).schedule = s.schedule := rfl
@[simp] theorem State.setPhase_draws (s : State) (p : RunPhase) :
    (s.setPhase p).draws = s.draws := rfl

@[simp] theorem State.setSchedule_V (s : State) (l : List Action) :
    (s.setSchedule l).V = s.V := rfl
@[simp] theorem State.setSchedule_I (s : State) (l : List Action) :
    (s.setSchedule l).I = s.I := rfl
@[simp] theorem State.setSchedule_pc (s : State) (l : List Action) :
    (s.setSchedule l).pc = s.pc := rfl
@[simp] theorem State.setSchedule_stack (s : State) (l : List Action) :
    (s.setSchedule l).stack = s.stack := rfl
@[simp] theorem State.setSchedule_sp (s : State) (l : List Action) :
    (s.setSchedule l).sp = s.sp := rfl
@[simp] theorem State.setSchedule_dt (s : State) (l : List Action) :
    (s.setSchedule l).dt = s.dt := rfl
@[simp] theorem State.setSchedule_st (s : State) (l : List Action) :
    (s.setSchedule l).st = s.st := rfl
@[simp] theorem State.setSchedule_opcode (s : State) (l : List Action) :
    (s.setSchedule l).opcode = s.opcode := rfl
@[simp] theorem State.setSchedule_key (s : State) (l : List Action) :
    (s.setSchedule l).key = s.key := rfl
@[simp] theorem State.setSchedule_fb (s : State) (l : List Action) :
    (s.setSchedule l).fb = s.fb := rfl
@[simp] theorem State.setSchedule_mem (s : State) (l : List Action) :
    (s.setSchedule l).mem = s.mem := rfl
@[simp] theorem State.setSchedule_fault (s : State) (l : List Action) :
    (s.setSchedule l).fault = s.fault := rfl
@[simp] theorem State.setSchedule_phase (s : State) (l : List Action) :
    (s.setSchedule l).phase = s.phase := rfl
@[simp] theorem State.setSchedule_schedule (s : State) (l : List Action) :
    (s.setSchedule l).schedule = l := rfl
@[simp] theorem State.setSchedule_draws (s : State) (l : List Action) :
    (s.setSchedule l).draws = s.draws := rfl

@[simp] theorem State.setDraws_V (s : State) (n : Nat) :
    (s.setDraws n).V = s.V := rfl
@[simp] theorem State.setDraws_I (s : State) (n : Nat) :
    (s.setDraws n).I = s.I := rfl
@[simp] theorem State.setDraws_pc (s : State) (n : Nat) :
    (s.setDraws n).pc = s.pc := rfl
@[simp] theorem State.setDraws_stack (s : State) (n : Nat) :
    (s.setDraws n).stack = s.stack := rfl
@[simp] theorem State.setDraws_sp (s : State) (n : Nat) :
    (s.setDraws n).sp = s.sp := rfl
@[simp] theorem State.setDraws_dt (s : State) (n : Nat) :
    (s.setDraws n).dt = s.dt := rfl
@[simp] theorem State.setDraws_st (s : State) (n : Nat) :
    (s.setDraws n).st = s.st := rfl
@[simp] theorem State.setDraws_opcode (s : State) (n : Nat) :
    (s.setDraws n).opcode = s.opcode := rfl
@[simp] theorem State.setDraws_key (s : State) (n : Nat) :
    (s.setDraws n).key = s.key := rfl
@[simp] theorem State.setDraws_fb (s : State) (n : Nat) :
    (s.setDraws n).fb = s.fb := rfl
@[simp] theorem State.setDraws_mem (s : State) (n : Nat) :
    (s.setDraws n).mem = s.mem := rfl
@[simp] theorem State.setDraws_fault (s : State) (n : Nat) :
    (s.setDraws n).fault = s.fault := rfl
@[simp] theorem State.setDraws_phase (s : State) (n : Nat) :
    (s.setDraws n).phase = s.phase := rfl
@[simp] theorem State.setDraws_schedule (s : State) (n : Nat) :
    (s.setDraws n).schedule = s.schedule := rfl
@[simp] theorem State.setDraws_draws (s : State) (n : Nat) :
    (s.setDraws n).draws = n := rfl

@[simp] theorem State.takeFault_V (s : State) (c : FaultCause) (v : Word) :
    (s.takeFault c v).V = s.V := rfl
@[simp] theorem State.takeFault_I (s : State) (c : FaultCause) (v : Word) :
    (s.takeFault c v).I = s.I := rfl
@[simp] theorem State.takeFault_pc (s : State) (c : FaultCause) (v : Word) :
    (s.takeFault c v).pc = s.pc := rfl
@[simp] theorem State.takeFault_stack (s : State) (c : FaultCause) (v : Word) :
    (s.takeFault c v).stack = s.stack := rfl
@[simp] theorem State.takeFault_sp (s : State) (c : FaultCause) (v : Word) :
    (s.takeFault c v).sp = s.sp := rfl
@[simp] theorem State.takeFault_dt (s : State) (c : FaultCause) (v : Word) :
    (s.takeFault c v).dt = s.dt := rfl
@[simp] theorem State.takeFault_st (s : State) (c : FaultCause) (v : Word) :
    (s.takeFault c v).st = s.st := rfl
@[simp] theorem State.takeFault_opcode (s : State) (c : FaultCause) (v : Word) :
    (s.takeFault c v).opcode = s.opcode := rfl
@[simp] theorem State.takeFault_key (s : State) (c : FaultCause) (v : Word) :
    (s.takeFault c v).key = s.key := rfl
@[simp] theorem State.takeFault_fb (s : State) (c : FaultCause) (v : Word) :
    (s.takeFault c v).fb = s.fb := rfl
@[simp] theorem State.takeFault_mem (s : State) (c : FaultCause) (v : Word) :
    (s.takeFault c v).mem = s.mem := rfl
@[simp] theorem State.takeFault_fault (s : State) (c : FaultCause) (v : Word) :
    (s.takeFault c v).fault = some ⟨c, v⟩ := rfl
@[simp] theorem State.takeFault_phase (s : State) (c : FaultCause) (v : Word) :
    (s.takeFault c v).phase = s.phase := rfl
@[simp] theorem State.takeFault_schedule (s : State) (c : FaultCause) (v : Word) :
    (s.takeFault c v).schedule = s.schedule := rfl
@[simp] theorem State.takeFault_draws (s : State) (c : FaultCause) (v : Word) :
    (s.takeFault c v).draws = s.draws := rfl

@[simp] theorem State.setResultAndFlag_I (s : State) (x : RegIdx) (r g : Byte) :
    (s.setResultAndFlag x r g).I = s.I := rfl
@[simp] theorem State.setResultAndFlag_pc (s : State) (x : RegIdx) (r g : Byte) :
    (s.setResultAndFlag x r g).pc = s.pc := rfl
@[simp] theorem State.setResultAndFlag_stack (s : State) (x : RegIdx) (r g : Byte) :
    (s.setResultAndFlag x r g).stack = s.stack := rfl
@[simp] theorem State.setResultAndFlag_sp (s : State) (x : RegIdx) (r g : Byte) :
    (s.setResultAndFlag x r g).sp = s.sp := rfl
@[simp] theorem State.setResultAndFlag_dt (s : State) (x : RegIdx) (r g : Byte) :
    (s.setResultAndFlag x r g).dt = s.dt := rfl
@[simp] theorem State.setResultAndFlag_st (s : State) (x : RegIdx) (r g : Byte) :
    (s.setResultAndFlag x r g).st = s.st := rfl
@[simp] theorem State.setResultAndFlag_opcode (s : State) (x : RegIdx) (r g : Byte) :
    (s.setResultAndFlag x r g).opcode = s.opcode := rfl
@[simp] theorem State.setResultAndFlag_key (s : State) (x : RegIdx) (r g : Byte) :
    (s.setResultAndFlag x r g).key = s.key := rfl
@[simp] theorem State.setResultAndFlag_fb (s : State) (x : RegIdx) (r g : Byte) :
    (s.setResultAndFlag x r g).fb = s.fb := rfl
@[simp] theorem State.setResultAndFlag_mem (s : State) (x : RegIdx) (r g : Byte) :
    (s.setResultAndFlag x r g).mem = s.mem := rfl
@[simp] theorem State.setResultAndFlag_fault (s : State) (x : RegIdx) (r g : Byte) :
    (s.setResultAndFlag x r g).fault = s.fault := rfl
@[simp] theorem State.setResultAndFlag_phase (s : State) (x : RegIdx) (r g : Byte) :
    (s.setResultAndFlag x r g).phase = s.phase := rfl
@[simp] theorem State.setResultAndFlag_schedule (s : State) (x : RegIdx) (r g : Byte) :
    (s.setResultAndFlag x r g).schedule = s.schedule := rfl
@[simp] theorem State.setResultAndFlag_draws (s : State) (x : RegIdx) (r g : Byte) :
    (s.setResultAndFlag x r g).draws = s.draws := rfl

end Sys2Proof.Machine
end

