-- ==== Sys2Proof/Laws/Ops.lean ====
section
/-! SUPPORT. One lemma per shared operation: registers, the result-and-flag write of R82, the call stack, the
framebuffer, keys, results and flags in arithmetic. -/

namespace Sys2Proof.Machine

/-! ## Registers -/

theorem State.reg_setReg (s : State) (x r : RegIdx) (b : Byte) :
    (s.setReg x b).reg r = if r = x then b else s.reg r := by
  simp [State.reg, Vector.getElem_set, Fin.ext_iff, eq_comm]

@[simp] theorem State.reg_setReg_same (s : State) (x : RegIdx) (b : Byte) : (s.setReg x b).reg x = b := by
  simp [State.reg_setReg]

theorem State.reg_setReg_ne (s : State) {x r : RegIdx} (b : Byte) (h : r ≠ x) : (s.setReg x b).reg r = s.reg r := by
  simp [State.reg_setReg, h]

/-- A state with the same registers reads the same (the updates that leave `V` alone). -/
theorem State.reg_congr {s t : State} (h : t.V = s.V) (r : RegIdx) : t.reg r = s.reg r := by
  simp [State.reg, h]

/-- VF ends as the flag, the destination as the result unless it is VF, the rest as before (R82). -/
theorem State.reg_setResultAndFlag (s : State) (x r : RegIdx) (v f : Byte) :
    (s.setResultAndFlag x v f).reg r = if r = flagReg then f else if r = x then v else s.reg r := by
  simp [State.setResultAndFlag, State.reg_setReg]

/-! ## Call stack -/

/-- A push answers exactly below 16 entries: the value at the old `sp`, the others kept, `sp` one more (R73). -/
theorem State.push_spec {s s' : State} {v : Word} (h : s.push v = some s') :
    ∃ hs : s.sp.val < 16, s' = { s with stack := s.stack.set s.sp.val v hs, sp := ⟨s.sp.val + 1, by omega⟩ } := by
  unfold State.push at h
  split at h
  · rename_i hs; exact ⟨hs, (Option.some.inj h).symm⟩
  · cases h

theorem State.push_eq_none {s : State} {v : Word} : s.push v = none ↔ s.sp.val = 16 := by
  have := s.sp.isLt
  unfold State.push Config.stackDepth
  split <;> simp <;> omega

/-- A pop answers exactly with an entry in use: the entry below `sp`, `sp` one less, the entry kept (R71). -/
theorem State.pop_spec {s s' : State} {c : Word} (h : s.pop = some (c, s')) :
    ∃ hs : 0 < s.sp.val, c = s.stack[s.sp.val - 1]'(by omega) ∧
      s' = { s with sp := ⟨s.sp.val - 1, by omega⟩ } := by
  unfold State.pop at h
  split at h
  · rename_i hs
    have h := Option.some.inj h
    exact ⟨hs, (congrArg Prod.fst h).symm, (congrArg Prod.snd h).symm⟩
  · cases h

theorem State.pop_eq_none {s : State} : s.pop = none ↔ s.sp.val = 0 := by
  unfold State.pop
  split <;> simp <;> omega

/-! ## Framebuffer and keys -/

@[simp] theorem State.pixel_clearFb (s : State) (cx : Fin 64) (cy : Fin 32) : s.clearFb.pixel cx cy = false := by
  simp [State.pixel]

@[simp] theorem State.cell_clearFb (s : State) (i : Fin 2048) : s.clearFb.cell i = false := by simp [State.cell]

theorem State.keyDown_setKey (s : State) (k j : Fin 16) (b : Bool) :
    (s.setKey k b).keyDown j = if j = k then b else s.keyDown j := by
  simp [State.keyDown, Vector.getElem_set, Fin.ext_iff, eq_comm]

/-! ## Results and flags -/

theorem sum9_toNat (a b : Byte) : (sum9 a b).toNat = a.toNat + b.toNat := by
  have := a.isLt; have := b.isLt
  simp [sum9]; omega

theorem addResult_toNat (a b : Byte) : (addResult a b).toNat = (a.toNat + b.toNat) % 256 := by
  simp [addResult, BitVec.extractLsb'_toNat, sum9_toNat]

theorem carryFlag_toNat (a b : Byte) :
    (carryFlag a b).toNat = if 255 < a.toNat + b.toNat then 1 else 0 := by
  have := a.isLt; have := b.isLt
  simp only [carryFlag, BitVec.truncate_eq_setWidth, BitVec.toNat_setWidth, BitVec.extractLsb'_toNat, sum9_toNat,
    Nat.shiftRight_eq_div_pow]
  split <;> omega

theorem subResult_toNat (a b : Byte) : (subResult a b).toNat = (256 + a.toNat - b.toNat) % 256 := by
  have := a.isLt; have := b.isLt
  simp only [subResult, BitVec.toNat_sub]
  omega

theorem noBorrowFlag_toNat (a b : Byte) : (noBorrowFlag a b).toNat = if b.toNat ≤ a.toNat then 1 else 0 := by
  unfold noBorrowFlag; split <;> rfl

theorem shrResult_toNat (a : Byte) : (shrResult a).toNat = a.toNat / 2 := by
  simp [shrResult, Nat.shiftRight_eq_div_pow]

theorem shrFlag_toNat (a : Byte) : (shrFlag a).toNat = a.toNat % 2 := by
  simp only [shrFlag, BitVec.truncate_eq_setWidth, BitVec.toNat_setWidth, BitVec.extractLsb'_toNat]
  simp; omega

theorem addrOperand_toNat (nnn : BitVec 12) : (addrOperand nnn).toNat = nnn.toNat := by
  have := nnn.isLt
  simp [addrOperand]; omega

/-! ## Skips and faults -/

theorem skipIf_pc (c : Bool) (s : State) : (skipIf c s).pc = if c then s.pc + 2#16 else s.pc := by
  cases c <;> rfl

/-- A skip writes `pc` and nothing else (R79). -/
theorem skipIf_eq (c : Bool) (s : State) : skipIf c s = s.setPc (if c then s.pc + 2#16 else s.pc) := by
  cases c <;> rfl

end Sys2Proof.Machine
end

