-- ==== Sys2Proof/Laws/Cycle.lean ====
section
/-! SUPPORT. What each part of the instruction cycle can do, said once: fetch, executing a word, an enabled Step, an
action. -/

namespace Sys2Proof.Machine

/-- The fetch (R34, R35, R61). -/
theorem State.fetchedWord_eq (s : State) :
    s.fetchedWord = if s.pc.toNat + 2 ≤ Config.memSize then
      some (joinBytes (Memory.read s.mem s.pc.toNat) (Memory.read s.mem (s.pc.toNat + 1))) else none := by
  unfold State.fetchedWord
  rw [Memory.readBytes_two]
  by_cases h : s.pc.toNat + 2 ≤ Config.memSize <;> simp [h]

/-- A ready state's fetch reads its word. -/
theorem Ready.fetchedWord {s : State} {w : Word} (h : Ready s w) : s.fetchedWord = some w := by
  obtain ⟨-, hpc, hhi, hlo⟩ := h
  rw [State.fetchedWord_eq, if_pos (by simp only [Config.memSize]; omega), hhi, hlo, joinBytes_high_low]

/-- An enabled step is one cycle in the running phase, the schedule's head taken off (R60, R66). -/
theorem step_of_enabled {s : State} (h : StepEnabled s) :
    step s = stepCycle (s.popSchedule.setPhase .running) := by
  obtain ⟨ha, hf, hp⟩ := h
  simp only [step, ha, act, engineStep, State.popSchedule, State.setSchedule_fault, hf, State.setSchedule_phase, hp,
    if_true]

/-- An enabled step that fetches `w` executes it. -/
theorem step_of_ready {s : State} {w : Word} (h : Ready s w) :
    step s = executeWord w (s.popSchedule.setPhase .running) := by
  have hw : (s.popSchedule.setPhase .running).fetchedWord = some w := h.fetchedWord
  rw [step_of_enabled h.1, stepCycle, hw]

/-- Executing a word that decodes: `exec`, then the advance (R60). -/
theorem executeWord_of_decode {w : Word} {i : Instr} (h : decodeWord w = .ok i) (s : State) :
    executeWord w s = executeInstr i (s.setOpcode w) := by
  rw [executeWord, h]

/-- Executing a word of no row: UnknownOpcode (R62). -/
theorem executeWord_of_error {w : Word} {e : DecodeError} (h : decodeWord w = .error e) (s : State) :
    executeWord w s = .next ((s.setOpcode w).takeFault .unknownOpcode w) := by
  rw [executeWord, h]; rfl

/-- The advance when no fault is latched (R64). -/
theorem advanceAfter_of_none {s : State} (h : s.fault = none) (i : Instr) :
    advanceAfter i s = if suppressesAdvance i then s else s.advancePc := by
  rw [advanceAfter, h]

/-- No advance after a raise (R60). -/
theorem advanceAfter_of_some {s : State} {r : FaultRecord} (h : s.fault = some r) (i : Instr) :
    advanceAfter i s = s := by
  rw [advanceAfter, h]

/-- The phases in which a Step has a meaning (R131). -/
theorem RunPhase.allowsStep_iff (p : RunPhase) : p.allowsStep = true ↔ ∀ e, p ≠ .failed e := by
  cases p <;> simp [RunPhase.allowsStep]

end Sys2Proof.Machine
end

