-- ==== Sys2Proof/Laws/PerInstr.lean ====
section
/-! SUPPORT. The family RowOfWord: the word the encoder builds for an instruction lies in the instruction's row of
the opcode table (R50, R91). -/

namespace Sys2Proof.Laws.RowOfWord

/-- `(encode i & mask) == match` for the row of `i`. -/
def Statement (i : Instr) : Prop := encode i &&& i.row.mask = i.row.value

theorem cls : Statement (.cls) :=
  rfl

theorem ret : Statement (.ret) :=
  rfl

theorem jp (nnn : BitVec 12) : Statement (.jp nnn) :=
  wordNNN_and_mask _ _

theorem call (nnn : BitVec 12) : Statement (.call nnn) :=
  wordNNN_and_mask _ _

theorem seImm (x : RegIdx) (kk : Byte) : Statement (.seImm x kk) :=
  (wordXKK_and_mask _ x kk 0x00#8).trans (by simp [Instr.row])

theorem sneImm (x : RegIdx) (kk : Byte) : Statement (.sneImm x kk) :=
  (wordXKK_and_mask _ x kk 0x00#8).trans (by simp [Instr.row])

theorem seReg (x y : RegIdx) : Statement (.seReg x y) :=
  wordXYN_and_mask _ x y _ 0xF#4

theorem ldImm (x : RegIdx) (kk : Byte) : Statement (.ldImm x kk) :=
  (wordXKK_and_mask _ x kk 0x00#8).trans (by simp [Instr.row])

theorem addImm (x : RegIdx) (kk : Byte) : Statement (.addImm x kk) :=
  (wordXKK_and_mask _ x kk 0x00#8).trans (by simp [Instr.row])

theorem ldReg (x y : RegIdx) : Statement (.ldReg x y) :=
  wordXYN_and_mask _ x y _ 0xF#4

theorem orReg (x y : RegIdx) : Statement (.orReg x y) :=
  wordXYN_and_mask _ x y _ 0xF#4

theorem andReg (x y : RegIdx) : Statement (.andReg x y) :=
  wordXYN_and_mask _ x y _ 0xF#4

theorem xorReg (x y : RegIdx) : Statement (.xorReg x y) :=
  wordXYN_and_mask _ x y _ 0xF#4

theorem addReg (x y : RegIdx) : Statement (.addReg x y) :=
  wordXYN_and_mask _ x y _ 0xF#4

theorem sub (x y : RegIdx) : Statement (.sub x y) :=
  wordXYN_and_mask _ x y _ 0xF#4

theorem shr (x y : RegIdx) : Statement (.shr x y) :=
  wordXYN_and_mask _ x y _ 0xF#4

theorem subn (x y : RegIdx) : Statement (.subn x y) :=
  wordXYN_and_mask _ x y _ 0xF#4

theorem sneReg (x y : RegIdx) : Statement (.sneReg x y) :=
  wordXYN_and_mask _ x y _ 0xF#4

theorem undefAnnn (nnn : BitVec 12) : Statement (.undefAnnn nnn) :=
  wordNNN_and_mask _ _

theorem undefDxyn (x y : RegIdx) (n : BitVec 4) : Statement (.undefDxyn x y n) :=
  (wordXYN_and_mask _ x y n 0x0#4).trans (by simp [Instr.row])

theorem undefEx9E (x : RegIdx) : Statement (.undefEx9E x) :=
  wordXKK_and_mask _ x _ 0xFF#8

theorem undefExA1 (x : RegIdx) : Statement (.undefExA1 x) :=
  wordXKK_and_mask _ x _ 0xFF#8

theorem undefFx07 (x : RegIdx) : Statement (.undefFx07 x) :=
  wordXKK_and_mask _ x _ 0xFF#8

theorem undefFx0A (x : RegIdx) : Statement (.undefFx0A x) :=
  wordXKK_and_mask _ x _ 0xFF#8

theorem undefFx15 (x : RegIdx) : Statement (.undefFx15 x) :=
  wordXKK_and_mask _ x _ 0xFF#8

theorem undefFx18 (x : RegIdx) : Statement (.undefFx18 x) :=
  wordXKK_and_mask _ x _ 0xFF#8

theorem undefFx33 (x : RegIdx) : Statement (.undefFx33 x) :=
  wordXKK_and_mask _ x _ 0xFF#8

theorem undefFx55 (x : RegIdx) : Statement (.undefFx55 x) :=
  wordXKK_and_mask _ x _ 0xFF#8

theorem undefFx65 (x : RegIdx) : Statement (.undefFx65 x) :=
  wordXKK_and_mask _ x _ 0xFF#8

end Sys2Proof.Laws.RowOfWord
end

