-- ==== Sys2Proof/Tests/Slice0.lean ====
section
/-! SUPPORT. Small tests of single decodings, assemblies and steps (expected results from spec/95_test_vectors.md and
the rules' own examples), and witnesses that the hypotheses of the obligations can be met. -/

open Sys2Proof Sys2Proof.Machine

namespace Sys2Proof.Tests

/-! ## Helpers -/

/-- The next state, if there is one. -/
def nextOf (o : Host.Outcome State Fault Refusal) : Option State :=
  match o with
  | .next t => some t
  | .fault _ => none
  | .refused _ => none

/-- What `f` shows of the next state. -/
def shows {α : Type} (o : Host.Outcome State Fault Refusal) (f : State → α) : Option α := (nextOf o).map f

/-- A fresh machine with some registers set. -/
def withRegs (l : List (RegIdx × Byte)) : State := l.foldl (fun s p => s.setReg p.1 p.2) State.reset

/-- A single-step vector of 95_test_vectors.md: the registers, then the opcode where the next fetch reads. -/
def vector (l : List (RegIdx × Byte)) (w : Nat) : State := (withRegs l).withFetchWord 16 w

/-- One step from a state, and what `f` shows of the result. -/
def afterStep {α : Type} (s : State) (f : State → α) : Option α := shows (step s) f

/-- A full call stack, every entry 0x0111 (T-FLOW row 7). -/
def fullStack (s : State) : State := { s with stack := Vector.replicate 16 0x0111#16, sp := 16 }

/-- A machine about to execute `w` at `pc` with `sp` entries in use, the lowest of them `c`. -/
def flowState (pc : Word) (sp : Fin 17) (c : Word) (w : Nat) : State :=
  { State.reset with pc := pc, sp := sp, stack := State.reset.stack.set 0 c }.withFetchWord 16 w

/-! ## Decoding, one word per constructor written bit by bit from R47, R50, R91 -/

theorem test_decode_cls : decodeWord 0b0000000011100000 = .ok .cls := by decide
theorem test_decode_ret : decodeWord 0b0000000011101110 = .ok .ret := by decide
theorem test_decode_jp : decodeWord 0b0001101010111100 = .ok (.jp 0xABC) := by decide
theorem test_decode_call : decodeWord 0b0010111111111111 = .ok (.call 0xFFF) := by decide
theorem test_decode_seImm : decodeWord 0b0011101001111111 = .ok (.seImm 0xA 0x7F) := by decide
theorem test_decode_sneImm : decodeWord 0b0100001100101010 = .ok (.sneImm 3 0x2A) := by decide
theorem test_decode_seReg : decodeWord 0b0101000100100000 = .ok (.seReg 1 2) := by decide
theorem test_decode_ldImm : decodeWord 0b0110111110101011 = .ok (.ldImm 0xF 0xAB) := by decide
theorem test_decode_addImm : decodeWord 0b0111001000000101 = .ok (.addImm 2 5) := by decide
theorem test_decode_ldReg : decodeWord 0b1000101010110000 = .ok (.ldReg 0xA 0xB) := by decide
theorem test_decode_orReg : decodeWord 0b1000000100100001 = .ok (.orReg 1 2) := by decide
theorem test_decode_andReg : decodeWord 0b1000000100100010 = .ok (.andReg 1 2) := by decide
theorem test_decode_xorReg : decodeWord 0b1000000100100011 = .ok (.xorReg 1 2) := by decide
theorem test_decode_addReg : decodeWord 0b1000101010110100 = .ok (.addReg 0xA 0xB) := by decide
theorem test_decode_sub : decodeWord 0b1000101010110101 = .ok (.sub 0xA 0xB) := by decide
theorem test_decode_shr : decodeWord 0b1000010010100110 = .ok (.shr 4 0xA) := by decide
theorem test_decode_subn : decodeWord 0b1000101010110111 = .ok (.subn 0xA 0xB) := by decide
theorem test_decode_sneReg : decodeWord 0b1001101010110000 = .ok (.sneReg 0xA 0xB) := by decide
theorem test_decode_Annn : decodeWord 0b1010001000101010 = .ok (.undefAnnn 0x22A) := by decide
theorem test_decode_Dxyn : decodeWord 0b1101000000010101 = .ok (.undefDxyn 0 1 5) := by decide
theorem test_decode_Ex9E : decodeWord 0b1110101010011110 = .ok (.undefEx9E 0xA) := by decide
theorem test_decode_ExA1 : decodeWord 0b1110000010100001 = .ok (.undefExA1 0) := by decide
theorem test_decode_Fx07 : decodeWord 0b1111001100000111 = .ok (.undefFx07 3) := by decide
theorem test_decode_Fx0A : decodeWord 0b1111001100001010 = .ok (.undefFx0A 3) := by decide
theorem test_decode_Fx15 : decodeWord 0b1111001100010101 = .ok (.undefFx15 3) := by decide
theorem test_decode_Fx18 : decodeWord 0b1111001100011000 = .ok (.undefFx18 3) := by decide
theorem test_decode_Fx33 : decodeWord 0b1111001100110011 = .ok (.undefFx33 3) := by decide
theorem test_decode_Fx55 : decodeWord 0b1111001101010101 = .ok (.undefFx55 3) := by decide
theorem test_decode_Fx65 : decodeWord 0b1111001101100101 = .ok (.undefFx65 3) := by decide

/-- T-DEC: words that are Unknown, and no named pattern either. -/
theorem test_decode_unmatched :
    [0x0000, 0x00E1, 0x00EF, 0x00FE, 0x0123, 0x0FFF, 0x5121, 0x512F, 0x9121, 0x912F, 0x8AB8, 0x8AB9, 0x8ABE, 0x8ABF,
      0xB123, 0xC0FF, 0xF01E, 0xF029, 0xFFFF].all
      (fun n => decide (decodeWord (BitVec.ofNat 16 n) = .error (.unmatched (BitVec.ofNat 16 n)))) = true := by decide

/-- Bytes: the high one first, the rest handed back (R45). -/
theorem test_decode_bytes : decode [0x60, 0x0C, 0x61] = .ok (.ldImm 0 0x0C, [0x61]) := by decide
theorem test_decode_truncated : decode [0x60] = .error .truncated := by decide

/-- The table's numbering: one word, bit 0 its least significant bit. -/
theorem test_table_word : decodeTableWord 16 0x8AB4 = some (.addReg 0xA 0xB) := by decide
theorem test_table_word_unmatched : decodeTableWord 16 0x0000 = none := by decide

/-! ## Assembler lines: each check of WellFormed refuses an ill-formed line -/

theorem test_asm_register_range : AsmLine.wellFormed ⟨.shr, [.reg 16]⟩ = false := by decide
theorem test_asm_immediate_range : AsmLine.wellFormed ⟨.ld, [.reg 0, .lit 256]⟩ = false := by decide
theorem test_asm_address_range : AsmLine.wellFormed ⟨.jp, [.lit 4096]⟩ = false := by decide
theorem test_asm_data_range : AsmLine.wellFormed ⟨.dw, [.lit 65536]⟩ = false := by decide
theorem test_asm_operand_count : AsmLine.wellFormed ⟨.cls, [.lit 0]⟩ = false := by decide
theorem test_asm_operand_kind : AsmLine.wellFormed ⟨.or, [.reg 0, .lit 1]⟩ = false := by decide

/-- P8: `8C B7` is `SUBN VC, VB`, `3F 01` is `SE VF, 0x01`; R53: plain `SHR V4` is 0x8406. -/
theorem test_asm_words :
    AsmLine.assemble ⟨.subn, [.reg 0xC, .reg 0xB]⟩ = some 0x8CB7 ∧
    AsmLine.assemble ⟨.se, [.reg 0xF, .lit 1]⟩ = some 0x3F01 ∧
    AsmLine.assemble ⟨.se, [.reg 1, .reg 2]⟩ = some 0x5120 ∧
    AsmLine.assemble ⟨.shr, [.reg 4]⟩ = some 0x8406 ∧
    AsmLine.assemble ⟨.dw, [.lit 0xA22A]⟩ = some 0xA22A := by decide

/-! ## One step per vector -/

/-- T-CLS row 1. -/
theorem test_cls_clears :
    afterStep ({ State.reset with fb := State.reset.fb.set 31 (Vector.replicate 64 true) }.withFetchWord 16 0x00E0)
      (fun t => (t.cell 2047, t.pc)) = some (false, 0x0202) := by decide

/-- T-FLOW row 8: the advance follows Return (decision D1). -/
theorem test_ret_resumes :
    afterStep (flowState 0x020C 1 0x0200 0x00EE) (fun t => (t.pc, t.sp, t.stack[0])) =
      some (0x0202, 0, 0x0200) := by decide

/-- T-FLOW row 9. -/
theorem test_ret_empty :
    afterStep (vector [] 0x00EE) (fun t => (t.fault, t.pc, t.opcode)) =
      some (some ⟨.stackUnderflow, 0x0200⟩, 0x0200, 0x00EE) := by decide

/-- T-FLOW row 3: an odd target is legal and no advance follows. -/
theorem test_jp_odd : afterStep (vector [] 0x1203) (fun t => t.pc) = some 0x0203 := by decide

/-- T-FLOW row 6: the last entry; the address of the Call is pushed. -/
theorem test_call_last_entry :
    afterStep ({ State.reset with sp := 15 }.withFetchWord 16 0x2300) (fun t => (t.stack[15], t.sp, t.pc)) =
      some (0x0200, 16, 0x0300) := by decide

/-- T-FLOW row 7. -/
theorem test_call_full :
    afterStep ((fullStack State.reset).withFetchWord 16 0x2300) (fun t => (t.fault, t.pc, t.sp, t.stack[15])) =
      some (some ⟨.stackOverflow, 0x0200⟩, 0x0200, 16, 0x0111) := by decide

/-- T-SKIP rows 1 to 4, 9, 10, 12, 13. -/
theorem test_se_imm_taken : afterStep (vector [(3, 0x2A)] 0x332A) (fun t => t.pc) = some 0x0204 := by decide
theorem test_se_imm_not : afterStep (vector [(3, 0x2B)] 0x332A) (fun t => t.pc) = some 0x0202 := by decide
theorem test_sne_imm_not : afterStep (vector [(3, 0x2A)] 0x432A) (fun t => t.pc) = some 0x0202 := by decide
theorem test_sne_imm_taken : afterStep (vector [(3, 0x2B)] 0x432A) (fun t => t.pc) = some 0x0204 := by decide
theorem test_se_reg_taken : afterStep (vector [(1, 7), (2, 7)] 0x5120) (fun t => t.pc) = some 0x0204 := by decide
theorem test_se_reg_not : afterStep (vector [(1, 7), (2, 8)] 0x5120) (fun t => t.pc) = some 0x0202 := by decide
theorem test_sne_reg_taken : afterStep (vector [(1, 7), (2, 8)] 0x9120) (fun t => t.pc) = some 0x0204 := by decide
theorem test_sne_reg_not : afterStep (vector [(1, 7), (2, 7)] 0x9120) (fun t => t.pc) = some 0x0202 := by decide

/-- T-IMM rows 2, 4, 9. -/
theorem test_ld_imm_vf : afterStep (vector [(15, 1)] 0x6FAB) (fun t => t.reg 15) = some 0xAB := by decide
theorem test_add_imm_no_flag :
    afterStep (vector [(2, 0xFE)] 0x7205) (fun t => (t.reg 2, t.reg 15)) = some (3, 0) := by decide
theorem test_add_imm_vf : afterStep (vector [(15, 0xFF)] 0x7F01) (fun t => t.reg 15) = some 0 := by decide

/-- T-ALU rows LG2 to LG5. -/
theorem test_ld_reg : afterStep (vector [(1, 0x77), (15, 1)] 0x8F10) (fun t => t.reg 15) = some 0x77 := by decide
theorem test_or :
    afterStep (vector [(1, 0xF0), (2, 0x0F), (15, 0xAA)] 0x8121) (fun t => (t.reg 1, t.reg 15)) =
      some (0xFF, 0xAA) := by decide
theorem test_and :
    afterStep (vector [(1, 0xF0), (2, 0x3C), (15, 0xAA)] 0x8122) (fun t => (t.reg 1, t.reg 15)) =
      some (0x30, 0xAA) := by decide
theorem test_xor :
    afterStep (vector [(1, 0xF0), (2, 0x3C), (15, 0xAA)] 0x8123) (fun t => (t.reg 1, t.reg 15)) =
      some (0xCC, 0xAA) := by decide

/-- T-ALU rows AD1 (the source's S10) and AD10. -/
theorem test_add_carry :
    afterStep (vector [(0xA, 0xFF), (0xB, 0x11)] 0x8AB4) (fun t => (t.reg 0xA, t.reg 0xB, t.reg 15, t.pc)) =
      some (0x10, 0x11, 1, 0x0202) := by decide
theorem test_add_y_is_vf :
    afterStep (vector [(1, 0xFF), (15, 1)] 0x81F4) (fun t => (t.reg 1, t.reg 15)) = some (0, 1) := by decide

/-- T-ALU rows SB1 (the source's S11) and SB7. -/
theorem test_sub_borrow :
    afterStep (vector [(0xA, 0), (0xB, 1)] 0x8AB5) (fun t => (t.reg 0xA, t.reg 15)) = some (0xFF, 0) := by decide
theorem test_sub_x_is_vf :
    afterStep (vector [(15, 5), (1, 3)] 0x8F15) (fun t => t.reg 15) = some 1 := by decide

/-- T-ALU rows SH6 and SH8. -/
theorem test_shr_logical :
    afterStep (vector [(4, 0x80), (15, 1)] 0x8406) (fun t => (t.reg 4, t.reg 15)) = some (0x40, 0) := by decide
theorem test_shr_x_is_vf : afterStep (vector [(15, 2)] 0x8F06) (fun t => t.reg 15) = some 0 := by decide

/-- T-ALU rows SN1 and SN8. -/
theorem test_subn_borrow :
    afterStep (vector [(1, 5), (2, 3)] 0x8127) (fun t => (t.reg 1, t.reg 2, t.reg 15)) = some (0xFE, 3, 0) := by decide
theorem test_subn_y_is_vf :
    afterStep (vector [(1, 2), (15, 1)] 0x81F7) (fun t => (t.reg 1, t.reg 15)) = some (0xFF, 0) := by decide

/-- T-FAULT rows 2, 3; T-KEY row 3: named and unnamed words without an operation. -/
theorem test_unknown_words :
    [0xA22A, 0x8ABE, 0xEA9E, 0xD015, 0xF055, 0x0000].all
      (fun n => decide (afterStep (vector [] n) (fun t => (t.fault, t.pc, t.opcode)) =
        some (some ⟨.unknownOpcode, BitVec.ofNat 16 n⟩, 0x0200, BitVec.ofNat 16 n))) = true := by decide

/-- T-FAULT row 7, its second step: the opcode register keeps the jump. -/
theorem test_fetch_out_of_bounds :
    afterStep { State.reset with pc := 0x0FFF, opcode := 0x1FFF } (fun t => (t.fault, t.pc, t.opcode)) =
      some (some ⟨.fetchOutOfBounds, 0x0FFF⟩, 0x0FFF, 0x1FFF) := by decide

/-- T-FAULT row 9: with a fault latched Step is not enabled. -/
theorem test_halted : nextOf (step (State.reset.takeFault .unknownOpcode 0)) = none := by decide

/-- T-TICK rows 1 and 2. -/
theorem test_tick :
    shows (act .tick (State.reset.setTimers 3 1)) (fun t => (t.dt, t.st, t.soundActive)) = some (2, 0, false) := by
  decide

/-- T-KEY row 1, scheduled before the next Step. -/
theorem test_set_key :
    afterStep (State.reset.setSchedule [.setKey 0xA true]) (fun t => (t.keyDown 10, t.keyDown 9, t.schedule)) =
      some (true, false, []) := by decide

/-- S7: the six-byte image; 0x206 stays 0. -/
theorem test_load_image :
    shows (act (.load ⟨[0xA2, 0x2A, 0x60, 0x0C, 0x61, 0x08], false⟩) State.reset)
      (fun t => ([0x200, 0x201, 0x205, 0x206].map (Memory.read t.mem), t.phase)) =
      some ([0xA2, 0x2A, 0x08, 0x00], .loaded) := by decide

/-- S9 with the conventional table of R33. -/
theorem test_conventional_font :
    [0x050, 0x054, 0x055, 0x09B, 0x09F, 0x04F, 0x0A0].map (Memory.unlistedWith Config.conventionalFont) =
      [0xF0, 0xF0, 0x20, 0xF0, 0x80, 0x00, 0x00] := by decide

/-! ## Witnesses: the hypotheses of the obligations can be met -/

theorem witness_decodes : decodeWord 0x8AB4 = .ok (.addReg 0xA 0xB) := by decide
theorem witness_row : (Instr.shr 0 0).row ∈ opcodeTable ∧
    (0x84A6 : Word) &&& (Instr.shr 0 0).row.mask = (Instr.shr 0 0).row.value := by decide
theorem witness_no_fault : State.reset.fault = none := by decide
theorem witness_skip_condition : ((withRegs [(3, 0x2A)]).reg 3).toNat = (0x2A : Byte).toNat ∧
    ¬ ((withRegs [(3, 0x2B)]).reg 3).toNat = (0x2A : Byte).toNat := by decide
theorem witness_unknown_nibbles : 1 ≤ 1 ∧ 1 ≤ 15 ∧ 1 ≤ 15 ∧ 15 ≤ 15 := by decide
theorem witness_return : 0 < (flowState 0x020C 1 0x0200 0x00EE).sp.val ∧
    (flowState 0x020C 1 0x0200 0x00EE).fault = none := by decide
theorem witness_return_full : 0 < (fullStack State.reset).sp.val ∧ (fullStack State.reset).fault = none := by decide
theorem witness_call_room : State.reset.sp.val < 16 ∧ ({ State.reset with sp := 15 } : State).sp.val < 16 ∧
    ({ State.reset with sp := 15 } : State).fault = none := by decide
theorem witness_stack_bounds : (fullStack State.reset).sp.val = 16 ∧ State.reset.sp.val = 0 := by decide
theorem witness_named_pattern : Instr.undefFx65 3 ∈ [Instr.undefAnnn 0, .undefDxyn 3 0 0, .undefEx9E 3, .undefExA1 3,
    .undefFx07 3, .undefFx0A 3, .undefFx15 3, .undefFx18 3, .undefFx33 3, .undefFx55 3, .undefFx65 3] := by decide

/-- The Call and the later Return of R74 (b), at 0x0200. -/
theorem witness_call_then_return : ∃ t u : State, State.reset.sp.val < 16 ∧ State.reset.fault = none ∧
    executeWord (BitVec.ofNat 16 (0x2000 + (0x208 : BitVec 12).toNat)) State.reset = .next t ∧ u.fault = none ∧
    u.sp = t.sp ∧ u.stack[State.reset.sp.val]? = t.stack[State.reset.sp.val]? :=
  ⟨_, _, by decide, rfl, rfl, rfl, rfl, rfl⟩

theorem witness_ready : Ready (vector [] 0x6001) 0x6001 ∧ decodeWord 0x6001 = .ok (.ldImm 0 1) := by decide
theorem witness_ready_at_last_fetch :
    Ready ({ State.reset with pc := 0x0FFE }.withFetchWord 16 0x00EE) 0x00EE ∧ decodeWord 0x00EE = .ok .ret := by decide
theorem witness_ready_unknown : Ready State.reset 0x0000 ∧ isUnknown 0x0000 = true := by decide
theorem witness_out_of_bounds : StepEnabled { State.reset with pc := 0x0FFF } ∧
    0x0FFE < ({ State.reset with pc := 0x0FFF } : State).pc.toNat := by decide

/-- Each cause of a latched fault occurs in an enabled step. -/
theorem witness_fault_causes :
    StepEnabled { State.reset with pc := 0x1000 } ∧
    afterStep { State.reset with pc := 0x1000 } (fun t => t.fault) = some (some ⟨.fetchOutOfBounds, 0x1000⟩) ∧
    StepEnabled State.reset ∧ afterStep State.reset (fun t => t.fault) = some (some ⟨.unknownOpcode, 0⟩) ∧
    StepEnabled (vector [] 0x00EE) ∧
    afterStep (vector [] 0x00EE) (fun t => t.fault) = some (some ⟨.stackUnderflow, 0x0200⟩) ∧
    StepEnabled ((fullStack State.reset).withFetchWord 16 0x2300) ∧
    afterStep ((fullStack State.reset).withFetchWord 16 0x2300) (fun t => t.fault) =
      some (some ⟨.stackOverflow, 0x0200⟩) := by decide

/-- A latched fault under each kind of next action: a Step, a Tick that completes, a Reset. -/
theorem witness_latched :
    (State.reset.takeFault .stackOverflow 0).fault = some ⟨.stackOverflow, 0⟩ ∧
    (State.reset.takeFault .stackOverflow 0).nextAction = .step ∧
    ((State.reset.takeFault .stackOverflow 0).setSchedule [.tick]).nextAction ≠ .reset ∧
    afterStep ((State.reset.takeFault .stackOverflow 0).setSchedule [.tick]) (fun t => t.fault) =
      some (some ⟨.stackOverflow, 0⟩) ∧
    ((State.reset.takeFault .stackOverflow 0).setSchedule [.reset]).nextAction = .reset := by decide

/-- The four ways `pc` moves, and a fault that leaves it. -/
theorem witness_pc_moves :
    afterStep (vector [] 0x6001) (fun t => (t.fault, t.pc)) = some (none, 0x0202) ∧
    afterStep (vector [] 0x3000) (fun t => (t.fault, t.pc)) = some (none, 0x0204) ∧
    afterStep (vector [] 0x2FFF) (fun t => (t.fault, t.pc)) = some (none, 0x0FFF) ∧
    afterStep (flowState 0x0300 1 0x0FFE 0x00EE) (fun t => (t.fault, t.pc)) = some (none, 0x1000) ∧
    afterStep (vector [] 0xFFFF) (fun t => t.pc) = some 0x0200 := by decide

theorem witness_exec_next : shows (exec (.addImm 0 1) State.reset) (fun t => t.reg 0) = some 1 ∧
    shows (exec .ret State.reset) (fun t => t.fault) ≠ some State.reset.fault := by decide
theorem witness_step_action : shows (act .step (vector [] 0x6001)) (fun t => t.pc) = some 0x0202 := by decide

/-- A machine a Load is allowed on, and images at the edges of the limit. -/
theorem witness_load : State.reset.phase = .fresh ∧ Memory.wf State.reset.mem = true ∧
    ([] : List Byte).length ≤ 3584 ∧ (List.replicate 3584 (0x12 : Byte)).length ≤ 3584 ∧
    3584 < (List.replicate 3585 (0x12 : Byte)).length := by
  simp only [List.length_replicate]
  decide

theorem witness_out_of_order :
    (State.reset.setPhase .loaded).phase ≠ .fresh ∧
    shows (act (.load ⟨[0x12], false⟩) State.reset) (fun t => t.phase) = some .loaded ∧
    shows (act (.load ⟨[], false⟩) State.reset) (fun t => t.phase) = some .loaded ∧
    (State.reset.setPhase (.failed .tooLarge)).phase = .failed .tooLarge ∧
    (State.reset.setPhase (.failed .tooLarge)).fault = none ∧
    shows (act .step State.reset) (fun t => t.phase) = some .running := by decide

/-- A Step on a word other than `2nnn`, `00EE` and `00E0`, and the other actions that complete. -/
theorem witness_writers :
    shows (act .step (vector [] 0x6001)) (fun t => t.opcode) = some 0x6001 ∧
    (0x6001 : Word).toNat / 4096 ≠ 2 ∧ (0x6001 : Word) ≠ 0x00EE ∧ (0x6001 : Word) ≠ 0x00E0 ∧
    shows (act .tick State.reset) (fun t => t.dt) = some 0 ∧
    shows (act (.setKey 15 true) State.reset) (fun t => t.keyDown 15) = some true := by decide

theorem witness_spin : Spinning (vector [] 0x1200) ∧ (vector [] 0x1200).schedule = [] := by decide

theorem witness_memory_canonical : Memory.wf (vector [] 0x6001).mem = true ∧
    afterStep (vector [] 0x6001) (fun t => t.mem) = some [(0x200, 0x60), (0x201, 0x01)] := by decide

/-- A machine inside a subroutine: the Call at 0x0200 executed, `00EE` next at 0x0300. -/
def inSubroutine : State :=
  { flowState 0x0300 1 0x0200 0x00EE with
    mem := [(0x200, 0x23), (0x301, 0xEE)], phase := .running }

theorem witness_run_invariant : RunInvariant inSubroutine ∧ afterStep inSubroutine (fun t => t.pc) = some 0x0202 := by
  refine ⟨⟨rfl, rfl, rfl, ?_, by decide, ?_, by decide⟩, by decide⟩
  · intro i
    simp [State.cell, State.pixel, inSubroutine, flowState, State.withFetchWord, State.placeWord, State.reset]
  · intro k h
    have hk : k = 0 := by
      have : inSubroutine.sp.val = 1 := by decide
      omega
    subst hk
    exact ⟨(by decide : (0x0200#16).toNat ≤ 0x0FFE), (by decide : (0x23#8).toNat / 16 = 2)⟩

theorem witness_reachable : Reachable (State.reset.setSchedule [.load ⟨[0x60, 0x01], false⟩, .tick]) :=
  Reachable.start _

end Sys2Proof.Tests
end

section
/-! Decoded words: the instruction determines its word, hence the family nibble of the opcode. -/

namespace Sys2Proof

/-! ## A word is built from its own fields (R46, R47) -/

theorem wordNNN_fields (w : Word) : wordNNN (fieldF w) (fieldNNN w) = w := by
  apply BitVec.eq_of_toNat_eq
  rw [wordNNN_toNat, fieldF_toNat, fieldNNN_toNat]
  omega

theorem wordXKK_fields (w : Word) : wordXKK (fieldF w) (fieldX w) (fieldKK w) = w := by
  apply BitVec.eq_of_toNat_eq
  rw [wordXKK_toNat, fieldF_toNat, fieldX_val, fieldKK_toNat]
  omega

theorem wordXYN_fields (w : Word) : wordXYN (fieldF w) (fieldX w) (fieldY w) (fieldN w) = w := by
  apply BitVec.eq_of_toNat_eq
  rw [wordXYN_toNat, fieldF_toNat, fieldX_val, fieldY_val, fieldN_toNat]
  omega

theorem joinBytes_toNat_div (hi lo : Byte) : (joinBytes hi lo).toNat / 256 = hi.toNat := by
  have := lo.isLt
  rw [joinBytes, BitVec.toNat_append, ← Nat.shiftLeft_add_eq_or_of_lt (by omega), Nat.shiftLeft_eq]
  omega

/-! ## Decoding determines the word -/

/-- Each leaf of the decoder fixes the nibbles its instruction's format leaves out, and the format's fields rebuild the
word. -/
theorem encode_of_decodeWord {w : Word} {i : Instr} (h : decodeWord w = .ok i) : encode i = w := by
  have hNNN := wordNNN_fields w
  have hXKK := wordXKK_fields w
  have hXYN := wordXYN_fields w
  unfold decodeWord at h
  repeat' split at h
  all_goals cases h
  all_goals simp_all [encode]

theorem decodeWord_ret : decodeWord 0x00EE#16 = .ok .ret := by decide

theorem encode_jp_toNat (nnn : BitVec 12) : (encode (.jp nnn)).toNat = 4096 * 1 + nnn.toNat := wordNNN_toNat _ _

theorem encode_call_toNat (nnn : BitVec 12) : (encode (.call nnn)).toNat = 4096 * 2 + nnn.toNat := wordNNN_toNat _ _

/-! ## Classes of instructions, and the words that decode into them -/

/-- The instructions whose `Exec` writes registers only (R80 to R90). -/
def Instr.writesRegs (i : Instr) : Bool :=
  match i with
  | .ldImm _ _ | .addImm _ _ | .ldReg _ _ | .orReg _ _ | .andReg _ _ | .xorReg _ _ | .addReg _ _ | .sub _ _
  | .shr _ _ | .subn _ _ => true
  | _ => false

/-- The conditional skips (R75 to R78). -/
def Instr.isSkip (i : Instr) : Bool :=
  match i with
  | .seImm _ _ | .sneImm _ _ | .seReg _ _ | .sneReg _ _ => true
  | _ => false

/-- The instructions after which `pc` has only been advanced: all but JP, CALL and RET (R67). -/
def Instr.keepsPath (i : Instr) : Bool :=
  match i with
  | .jp _ | .call _ | .ret => false
  | _ => true

theorem Instr.keepsPath_of_writesRegs {i : Instr} (hi : i.writesRegs = true) : i.keepsPath = true := by
  cases i
  case jp | call | ret => cases hi
  all_goals rfl

theorem Instr.keepsPath_of_isSkip {i : Instr} (hi : i.isSkip = true) : i.keepsPath = true := by
  cases i
  case jp | call | ret => cases hi
  all_goals rfl

theorem Instr.suppressesAdvance_of_keepsPath {i : Instr} (hi : i.keepsPath = true) :
    Machine.suppressesAdvance i = false := by
  cases i
  case jp | call => cases hi
  all_goals rfl

theorem decodeWord_family_of_isSkip {w : Word} {i : Instr} (hd : decodeWord w = .ok i) (hi : i.isSkip = true) :
    w.toNat / 4096 ∈ [3, 4, 5, 9] := by
  rw [← encode_of_decodeWord hd, ← fieldF_toNat]
  cases i
  case seImm | sneImm | seReg | sneReg => simp [encode]
  all_goals cases hi

theorem decodeWord_family_of_keepsPath {w : Word} {i : Instr} (hd : decodeWord w = .ok i)
    (hi : i.keepsPath = true) : w.toNat / 4096 ≠ 1 ∧ w.toNat / 4096 ≠ 2 ∧ w ≠ 0x00EE := by
  have hne : w ≠ 0x00EE := by
    rintro rfl
    obtain rfl : Instr.ret = i := Except.ok.inj (decodeWord_ret.symm.trans hd)
    cases hi
  rw [← and_assoc]
  refine ⟨?_, hne⟩
  rw [← encode_of_decodeWord hd, ← fieldF_toNat]
  cases i
  case jp | call | ret => cases hi
  case cls => decide
  all_goals simp [encode]

theorem decodeWord_target {w : Word} {i : Instr} {nnn : BitVec 12} (hd : decodeWord w = .ok i)
    (hi : i = .jp nnn ∨ i = .call nnn) :
    (Machine.addrOperand nnn).toNat = w.toNat % 4096 ∧ w.toNat / 4096 ∈ [1, 2] := by
  have := nnn.isLt
  rw [← encode_of_decodeWord hd, Machine.addrOperand_toNat, List.mem_pair]
  obtain rfl | rfl := hi
  · rw [encode_jp_toNat]; omega
  · rw [encode_call_toNat]; omega

end Sys2Proof
end

section
/-! What `Exec` can do, said once, and what follows for every instruction. -/

namespace Sys2Proof.Machine

/-! ## The effects of `Exec` -/

/-- `ExecEffect s i t`: `t` is a state `Exec` of `i` may give from `s`, guards included; only the values that a register
instruction writes, and whether a skip is taken, are left out (R63, R70 to R91). -/
inductive ExecEffect (s : State) : Instr → State → Prop where
  | regs {i : Instr} (hi : i.writesRegs = true) (v : Vector Byte 16) : ExecEffect s i { s with V := v }
  | skip {i : Instr} (hi : i.isSkip = true) (c : Bool) : ExecEffect s i (s.setPc (if c then s.pc + 2#16 else s.pc))
  | clear : ExecEffect s .cls s.clearFb
  | jump (nnn : BitVec 12) : ExecEffect s (.jp nnn) (s.setPc (addrOperand nnn))
  | call (nnn : BitVec 12) (hs : s.sp.val < 16) :
      ExecEffect s (.call nnn)
        { s with stack := s.stack.set s.sp.val s.pc hs, sp := ⟨s.sp.val + 1, by omega⟩, pc := addrOperand nnn }
  | ret (hs : 0 < s.sp.val) :
      ExecEffect s .ret { s with sp := ⟨s.sp.val - 1, by omega⟩, pc := s.stack[s.sp.val - 1]'(by omega) }
  | overflow (nnn : BitVec 12) (hs : s.sp.val = 16) : ExecEffect s (.call nnn) (s.takeFault .stackOverflow s.pc)
  | underflow (hs : s.sp.val = 0) : ExecEffect s .ret (s.takeFault .stackUnderflow s.pc)
  | undefined {i : Instr} (hi : i.hasOperation = false) : ExecEffect s i (s.takeFault .unknownOpcode s.opcode)

theorem execRet_effect {s t : State} (h : execRet s = .next t) : ExecEffect s .ret t := by
  unfold execRet at h
  split at h <;> cases h
  case h_1 hpop =>
    obtain ⟨hs, rfl, rfl⟩ := State.pop_spec hpop
    exact .ret hs
  case h_2 hpop => exact .underflow (State.pop_eq_none.mp hpop)

theorem execCall_effect {nnn : BitVec 12} {s t : State} (h : execCall nnn s = .next t) :
    ExecEffect s (.call nnn) t := by
  unfold execCall at h
  split at h <;> cases h
  case h_1 hpush =>
    obtain ⟨hs, rfl⟩ := State.push_spec hpush
    exact .call nnn hs
  case h_2 hpush => exact .overflow nnn (State.push_eq_none.mp hpush)

theorem exec_effect {i : Instr} {s t : State} (h : exec i s = .next t) : ExecEffect s i t := by
  cases i
  case cls => cases h; exact .clear
  case ret => exact execRet_effect h
  case jp nnn => cases h; exact .jump nnn
  case call nnn => exact execCall_effect h
  case seImm | sneImm | seReg | sneReg => cases h; rw [skipIf_eq]; exact .skip rfl _
  case ldImm | addImm | ldReg | orReg | andReg | xorReg | addReg | sub | shr | subn => cases h; exact .regs rfl _
  all_goals cases h; exact .undefined rfl

namespace ExecEffect

variable {i : Instr} {s t : State}

/-- The frame of `Exec` (R63). -/
theorem frame (h : ExecEffect s i t) :
    t = { s with V := t.V, pc := t.pc, stack := t.stack, sp := t.sp, fb := t.fb, fault := t.fault } := by
  cases h <;> rfl

theorem opcode_eq (h : ExecEffect s i t) : t.opcode = s.opcode := by rw [h.frame]

/-- Only CALL and RET touch the stack (R27). -/
theorem stack_eq (h : ExecEffect s i t) (hret : i ≠ .ret) (hcall : ∀ nnn, i ≠ .call nnn) :
    t.stack = s.stack ∧ t.sp = s.sp := by
  cases h
  case ret | underflow => exact absurd rfl hret
  case call nnn _ | overflow nnn _ => exact absurd rfl (hcall nnn)
  all_goals exact ⟨rfl, rfl⟩

/-- Only CLS touches the framebuffer (R27). -/
theorem fb_eq (h : ExecEffect s i t) (hcls : i ≠ .cls) : t.fb = s.fb := by
  cases h
  case clear => exact absurd rfl hcls
  all_goals rfl

/-- No instruction lights a cell (R26 (e)). -/
theorem cell_dark (h : ExecEffect s i t) (hs : ∀ c, s.cell c = false) : ∀ c, t.cell c = false := by
  cases h
  case clear => exact State.cell_clearFb s
  all_goals exact hs

end ExecEffect

/-! ## What `Exec` does not read -/

/-- The elements no instruction reads: memory, `I`, the timers and the keys. -/
structure Unread where
  mem : List Host.Cell
  I : Word
  dt : Byte
  st : Byte
  key : Vector Bool 16

/-- The unread elements replaced. -/
def State.withUnread (s : State) (r : Unread) : State :=
  { s with mem := r.mem, I := r.I, dt := r.dt, st := r.st, key := r.key }

theorem skipIf_withUnread (c : Bool) (s : State) (r : Unread) :
    skipIf c (s.withUnread r) = (skipIf c s).withUnread r := by
  cases c <;> rfl

theorem State.push_withUnread (s : State) (v : Word) (r : Unread) :
    (s.withUnread r).push v = (s.push v).map (·.withUnread r) := by
  by_cases h : s.sp.val < Config.stackDepth <;> simp [State.push, State.withUnread, h]

theorem State.pop_withUnread (s : State) (r : Unread) :
    (s.withUnread r).pop = s.pop.map fun p => (p.1, p.2.withUnread r) := by
  by_cases h : 0 < s.sp.val <;> simp [State.pop, State.withUnread, h]

/-- `Exec` commutes with replacing what it does not read (R12, R16, R18, R31). -/
theorem exec_withUnread {i : Instr} {s t : State} (r : Unread) (h : exec i s = .next t) :
    exec i (s.withUnread r) = .next (t.withUnread r) := by
  cases i
  case ret =>
    simp only [exec, execRet, State.pop_withUnread] at h ⊢
    cases hp : s.pop <;> (rw [hp] at h; cases h; rfl)
  case call nnn =>
    simp only [exec, execCall] at h ⊢
    rw [show (s.withUnread r).pc = s.pc from rfl, State.push_withUnread]
    cases hp : s.push s.pc <;> (rw [hp] at h; cases h; rfl)
  case seImm | sneImm | seReg | sneReg =>
    cases h
    exact congrArg Host.Outcome.next (skipIf_withUnread _ s r)
  all_goals cases h; rfl

/-- Settles O36: `Exec` commutes with replacing the unread elements. -/
theorem execReadsOnlyEngineState : Obligations.ExecReadsOnlyEngineState := by
  intro i s t m ix d e k h
  exact exec_withUnread ⟨m, ix, d, e, k⟩ h

end Sys2Proof.Machine
end

section
/-! What a Step and a Load can do, said once: inversion of the cycle, its frame, and how `pc` moves. -/

namespace Sys2Proof.Machine

/-! ## The advance writes `pc` only (R64) -/

theorem advanceAfter_eq_setPc (i : Instr) (s : State) : advanceAfter i s = s.setPc (advanceAfter i s).pc := by
  unfold advanceAfter
  cases s.fault <;> cases suppressesAdvance i <;> rfl

@[simp] theorem advanceAfter_stack (i : Instr) (s : State) : (advanceAfter i s).stack = s.stack := by
  rw [advanceAfter_eq_setPc, State.setPc_stack]

@[simp] theorem advanceAfter_sp (i : Instr) (s : State) : (advanceAfter i s).sp = s.sp := by
  rw [advanceAfter_eq_setPc, State.setPc_sp]

@[simp] theorem advanceAfter_fb (i : Instr) (s : State) : (advanceAfter i s).fb = s.fb := by
  rw [advanceAfter_eq_setPc, State.setPc_fb]

@[simp] theorem advanceAfter_opcode (i : Instr) (s : State) : (advanceAfter i s).opcode = s.opcode := by
  rw [advanceAfter_eq_setPc, State.setPc_opcode]

@[simp] theorem advanceAfter_fault (i : Instr) (s : State) : (advanceAfter i s).fault = s.fault := by
  rw [advanceAfter_eq_setPc, State.setPc_fault]

theorem advanceAfter_pc_of_advances {i : Instr} {s : State} (hf : s.fault = none)
    (hi : suppressesAdvance i = false) : (advanceAfter i s).pc = s.pc + 2#16 := by
  rw [advanceAfter_of_none hf, hi]; rfl

theorem advanceAfter_pc_of_suppressed {i : Instr} {s : State} (hi : suppressesAdvance i = true) :
    (advanceAfter i s).pc = s.pc := by
  unfold advanceAfter
  rw [hi]
  cases s.fault <;> rfl

/-! ## Inversion of the Step -/

theorem State.fetchedWord_eq_some {s : State} {w : Word} (h : s.fetchedWord = some w) :
    s.pc.toNat ≤ 0x0FFE ∧ w.toNat / 256 = (Memory.read s.mem s.pc.toNat).toNat := by
  rw [State.fetchedWord_eq] at h
  split at h <;> cases h
  next hpc => exact ⟨by simp only [Config.memSize] at hpc; omega, joinBytes_toNat_div _ _⟩

/-- The three ways through an enabled Step: no fetch, a word of no row, an instruction (R60 to R64). -/
theorem stepCycle_cases {s t : State} (h : stepCycle s = .next t) :
    (s.fetchedWord = none ∧ t = s.takeFault .fetchOutOfBounds s.pc) ∨
    (∃ w e, s.fetchedWord = some w ∧ decodeWord w = .error e ∧ t = (s.setOpcode w).takeFault .unknownOpcode w) ∨
    ∃ w i u, s.fetchedWord = some w ∧ decodeWord w = .ok i ∧ ExecEffect (s.setOpcode w) i u ∧
      t = advanceAfter i u := by
  unfold stepCycle at h
  split at h
  case h_2 hw => cases h; exact .inl ⟨hw, rfl⟩
  case h_1 w hw =>
    cases hd : decodeWord w with
    | error e =>
      rw [executeWord_of_error hd] at h
      cases h
      exact .inr (.inl ⟨w, e, hw, hd, rfl⟩)
    | ok i =>
      rw [executeWord_of_decode hd, executeInstr] at h
      split at h <;> cases h
      next u hu => exact .inr (.inr ⟨w, i, u, hw, hd, exec_effect hu, rfl⟩)

theorem engineStep_next {s t : State} (h : engineStep s = .next t) :
    s.fault = none ∧ s.phase.allowsStep = true ∧ stepCycle (s.setPhase .running) = .next t := by
  unfold engineStep at h
  split at h
  next => cases h
  next hf =>
    split at h
    next hp => exact ⟨hf, hp, h⟩
    next => cases h

/-- The frame of a Step (R27). -/
theorem engineStep_frame {s t : State} (h : engineStep s = .next t) :
    t = { s with V := t.V, pc := t.pc, stack := t.stack, sp := t.sp, fb := t.fb, fault := t.fault,
                 opcode := t.opcode, phase := .running } := by
  obtain ⟨-, -, hcyc⟩ := engineStep_next h
  obtain ⟨-, rfl⟩ | ⟨w, e, -, -, rfl⟩ | ⟨w, i, u, -, -, hu, rfl⟩ := stepCycle_cases hcyc
  · rfl
  · rfl
  · rw [advanceAfter_eq_setPc, hu.frame]; rfl

/-- A Step changes the stack or `sp` only on `2nnn` or `00EE` (R27). -/
theorem engineStep_stack_eq {s t : State} (h : engineStep s = .next t) (hcall : t.opcode.toNat / 4096 ≠ 2)
    (hret : t.opcode ≠ 0x00EE) : t.stack = s.stack ∧ t.sp = s.sp := by
  obtain ⟨-, -, hcyc⟩ := engineStep_next h
  obtain ⟨-, rfl⟩ | ⟨w, e, -, -, rfl⟩ | ⟨w, i, u, -, hd, hu, rfl⟩ := stepCycle_cases hcyc
  · exact ⟨rfl, rfl⟩
  · exact ⟨rfl, rfl⟩
  · simp only [advanceAfter_opcode, advanceAfter_stack, advanceAfter_sp] at hcall hret ⊢
    have hop : u.opcode = encode i := hu.opcode_eq.trans (encode_of_decodeWord hd).symm
    refine hu.stack_eq ?_ ?_
    · rintro rfl
      exact hret hop
    · rintro nnn rfl
      have := nnn.isLt
      rw [hop, encode_call_toNat] at hcall
      omega

/-- A Step changes the framebuffer only on `00E0` (R27). -/
theorem engineStep_fb_eq {s t : State} (h : engineStep s = .next t) (hcls : t.opcode ≠ 0x00E0) : t.fb = s.fb := by
  obtain ⟨-, -, hcyc⟩ := engineStep_next h
  obtain ⟨-, rfl⟩ | ⟨w, e, -, -, rfl⟩ | ⟨w, i, u, -, hd, hu, rfl⟩ := stepCycle_cases hcyc
  · rfl
  · rfl
  · simp only [advanceAfter_opcode, advanceAfter_fb] at hcls ⊢
    refine hu.fb_eq ?_
    rintro rfl
    exact hcls (hu.opcode_eq.trans (encode_of_decodeWord hd).symm)

/-! ## How `pc` moves -/

/-- The `pc` a Step without a fault leaves after executing `w` from `s`: advanced, advanced past a skipped instruction,
the target of a jump or a call, or the popped entry plus 2 (R13, R67). -/
inductive PcMove (s : State) (w : Word) : Word → Prop where
  | advance (hjp : w.toNat / 4096 ≠ 1) (hcall : w.toNat / 4096 ≠ 2) (hret : w ≠ 0x00EE) : PcMove s w (s.pc + 2#16)
  | skip (hfam : w.toNat / 4096 ∈ [3, 4, 5, 9]) : PcMove s w (s.pc + 4#16)
  | target {p : Word} (hp : p.toNat = w.toNat % 4096) (hfam : w.toNat / 4096 ∈ [1, 2]) : PcMove s w p
  | resume (hs : 0 < s.sp.val) (hret : w = 0x00EE) : PcMove s w (s.stack[s.sp.val - 1]'(by omega) + 2#16)

theorem pcMove_advance {s t : State} {w : Word} {i : Instr} (hd : decodeWord w = .ok i) (hi : i.keepsPath = true)
    (hf : t.fault = none) (hpc : t.pc = s.pc) : PcMove s w (advanceAfter i t).pc := by
  obtain ⟨hjp, hcall, hret⟩ := decodeWord_family_of_keepsPath hd hi
  rw [advanceAfter_pc_of_advances hf (Instr.suppressesAdvance_of_keepsPath hi), hpc]
  exact .advance hjp hcall hret

theorem pcMove_target {s t : State} {w : Word} {i : Instr} {nnn : BitVec 12} (hd : decodeWord w = .ok i)
    (hi : i = .jp nnn ∨ i = .call nnn) (hpc : t.pc = addrOperand nnn) : PcMove s w (advanceAfter i t).pc := by
  obtain ⟨hp, hfam⟩ := decodeWord_target hd hi
  have hsup : suppressesAdvance i = true := by obtain rfl | rfl := hi <;> rfl
  rw [advanceAfter_pc_of_suppressed hsup, hpc]
  exact .target hp hfam

theorem pcMove_skip {s : State} {w : Word} {i : Instr} (hd : decodeWord w = .ok i) (hi : i.isSkip = true)
    (hf : s.fault = none) (c : Bool) :
    PcMove s w (advanceAfter i (s.setPc (if c then s.pc + 2#16 else s.pc))).pc := by
  have hpath := Instr.keepsPath_of_isSkip hi
  cases c
  case false => exact pcMove_advance hd hpath hf rfl
  case true =>
    rw [advanceAfter_pc_of_advances (by exact hf) (Instr.suppressesAdvance_of_keepsPath hpath)]
    simpa [BitVec.add_assoc] using PcMove.skip (decodeWord_family_of_isSkip hd hi)

theorem ExecEffect.pc_advanceAfter {i : Instr} {s t : State} {w : Word} (h : ExecEffect s i t) (hf : s.fault = none)
    (hd : decodeWord w = .ok i) :
    (t.fault = none ∧ PcMove s w (advanceAfter i t).pc) ∨ (t.fault ≠ none ∧ (advanceAfter i t).pc = s.pc) := by
  cases h
  case regs v hi => exact .inl ⟨hf, pcMove_advance hd (Instr.keepsPath_of_writesRegs hi) hf rfl⟩
  case clear => exact .inl ⟨hf, pcMove_advance hd rfl hf rfl⟩
  case skip c hi => exact .inl ⟨hf, pcMove_skip hd hi hf c⟩
  case jump nnn => exact .inl ⟨hf, pcMove_target hd (.inl rfl) rfl⟩
  case call nnn hs => exact .inl ⟨hf, pcMove_target hd (.inr rfl) rfl⟩
  case ret hs =>
    rw [advanceAfter_pc_of_advances (by exact hf) rfl]
    exact .inl ⟨hf, .resume hs (encode_of_decodeWord hd).symm⟩
  all_goals exact .inr ⟨nofun, rfl⟩

/-- Settles O29: the ways `pc` moves, on the state an enabled step runs its cycle from. -/
theorem pcMovesInFourWays : Obligations.PcMovesInFourWays := by
  intro s t hen hstep
  rw [step_of_enabled hen] at hstep
  obtain ⟨-, hf, -⟩ := hen
  obtain ⟨-, rfl⟩ | ⟨w, e, -, -, rfl⟩ | ⟨w, i, u, -, hd, hu, rfl⟩ := stepCycle_cases hstep
  · exact ⟨nofun, fun _ => rfl⟩
  · exact ⟨nofun, fun _ => rfl⟩
  · rw [advanceAfter_opcode, hu.opcode_eq, State.setOpcode_opcode, advanceAfter_fault]
    obtain ⟨hu', hmove⟩ | ⟨hu', hpc⟩ := hu.pc_advanceAfter hf hd
    · refine ⟨fun _ => ?_, fun hne => absurd hu' hne⟩
      generalize (advanceAfter i u).pc = p at hmove
      cases hmove
      case advance hjp hcall hret => exact .inl ⟨rfl, hjp, hcall, hret⟩
      case skip hfam => exact .inr (.inl ⟨rfl, hfam⟩)
      case target hfam hp => exact .inr (.inr (.inl ⟨hp, hfam⟩))
      case resume hs hret => exact .inr (.inr (.inr ⟨_, Vector.getElem?_eq_getElem _, hs, rfl, hret⟩))
    · exact ⟨fun hn => absurd hn hu', fun _ => hpc⟩

/-! ## Load -/

theorem load_next {src : ImageSource} {s t : State} (h : load src s = .next t) :
    s.phase = .fresh ∧ t = loadImage src s := by
  unfold load at h
  split at h <;> cases h
  next hfresh => exact ⟨hfresh, rfl⟩

/-- Whatever its result, a Load writes a run of bytes that fits from 0x200 on (R127 to R130). -/
theorem loadImage_eq (src : ImageSource) (s : State) :
    ∃ bytes n p, bytes.length ≤ Config.maxImage ∧ loadImage src s =
      ((s.setMem (Memory.writeBytes s.mem Config.programBase bytes)).setDraws n).setPhase p := by
  unfold loadImage
  split
  · exact ⟨src.bytes.take Config.maxImage, s.draws, .failed .ioError, by simp, rfl⟩
  · split
    · exact ⟨failedLoadBytes s.draws 0 (src.bytes.take Config.maxImage), s.draws + 1, .failed .tooLarge,
        by simp [length_failedLoadBytes], rfl⟩
    · exact ⟨src.bytes, s.draws, .loaded, by omega, rfl⟩

/-- Settles O46: each action's frame; for the Step, the instruction told by the opcode register. -/
theorem writersOfEachElement : Obligations.WritersOfEachElement := by
  intro a s t h hreset
  cases a
  case reset => exact absurd rfl hreset
  case step =>
    rw [engineStep_frame h]
    refine ⟨rfl, fun _ _ => rfl, fun _ => rfl, fun _ => ⟨rfl, rfl⟩, fun hne => absurd rfl hne, fun hw => ?_,
      fun hw => ?_⟩
    · obtain ⟨hcall, hret⟩ := hw.resolve_left fun hne => hne rfl
      exact engineStep_stack_eq (t := t) h hcall hret
    · exact engineStep_fb_eq (t := t) h (hw.resolve_left fun hne => hne rfl)
  case tick =>
    cases h
    exact ⟨rfl, fun _ _ => rfl, fun _ => rfl, fun hne => absurd rfl hne, fun _ => ⟨rfl, rfl, rfl, rfl⟩,
      fun _ => ⟨rfl, rfl⟩, fun _ => rfl⟩
  case setKey k b =>
    cases h
    exact ⟨rfl, fun _ _ => rfl, fun hne => absurd rfl (hne k b), fun _ => ⟨rfl, rfl⟩, fun _ => ⟨rfl, rfl, rfl, rfl⟩,
      fun _ => ⟨rfl, rfl⟩, fun _ => rfl⟩
  case load src =>
    obtain ⟨-, rfl⟩ := load_next h
    obtain ⟨bytes, n, p, -, heq⟩ := loadImage_eq src s
    rw [heq]
    exact ⟨rfl, fun hne => absurd rfl (hne src), fun _ => rfl, fun _ => ⟨rfl, rfl⟩, fun _ => ⟨rfl, rfl, rfl, rfl⟩,
      fun _ => ⟨rfl, rfl⟩, fun _ => rfl⟩

end Sys2Proof.Machine
end

section
/-! The invariants of every step of every agent: canonical memory, and R26. -/

namespace Sys2Proof.Machine

/-! ## Canonical memory -/

theorem act_keeps_memory_canonical {a : Action} {s t : State} (hm : Memory.wf s.mem = true)
    (h : act a s = .next t) : Memory.wf t.mem = true := by
  cases a
  case step => rw [engineStep_frame h]; exact hm
  case tick | setKey => cases h; exact hm
  case load src =>
    obtain ⟨-, rfl⟩ := load_next h
    obtain ⟨bytes, n, p, hlen, heq⟩ := loadImage_eq src s
    have hfit : Config.programBase + bytes.length ≤ Config.memSize := by
      simp only [Config.programBase, Config.memSize, Config.maxImage] at *
      omega
    rw [heq]
    exact Memory.wf_writeBytes hfit hm
  case reset => cases h; rfl

/-- Settles O48: only a Load and Reset write memory. -/
theorem stepKeepsMemoryCanonical : Obligations.StepKeepsMemoryCanonical := by
  intro s t hm h
  exact act_keeps_memory_canonical (s := s.popSchedule) hm h

/-! ## Stack entries in use are addresses of calls (R26 (h)) -/

/-- A fetch at `a` is in bounds and reads a `2nnn`. -/
def IsCallSite (m : List Host.Cell) (a : Word) : Prop :=
  a.toNat ≤ 0x0FFE ∧ (Memory.read m a.toNat).toNat / 16 = 2

/-- Every stack entry in use is a call site in the memory `m`: the clause `returnAddresses` of `RunInvariant`. -/
def StackHoldsCallSites (m : List Host.Cell) (s : State) : Prop :=
  ∀ k (h : k < s.sp.val), IsCallSite m (s.stack[k]'(by omega))

theorem isCallSite_of_fetch {s : State} {w : Word} {nnn : BitVec 12} (hw : s.fetchedWord = some w)
    (hd : decodeWord w = .ok (.call nnn)) : IsCallSite s.mem s.pc := by
  obtain ⟨hpc, hhigh⟩ := State.fetchedWord_eq_some hw
  have hword : w.toNat = 4096 * 2 + nnn.toNat := by rw [← encode_of_decodeWord hd, encode_call_toNat]
  have := nnn.isLt
  exact ⟨hpc, by omega⟩

theorem ExecEffect.stackHoldsCallSites {m : List Host.Cell} {i : Instr} {s t : State} (h : ExecEffect s i t)
    (hs : StackHoldsCallSites m s) (hcall : ∀ nnn, i = .call nnn → IsCallSite m s.pc) :
    StackHoldsCallSites m t := by
  cases h
  case call nnn hroom =>
    intro k hk
    by_cases hk' : k = s.sp.val
    · subst hk'
      simpa using hcall nnn rfl
    · have hlt : k < s.sp.val := Nat.lt_of_le_of_ne (Nat.le_of_lt_succ hk) hk'
      simpa [Vector.getElem_set_ne _ _ (Ne.symm hk')] using hs k hlt
  case ret hpos =>
    intro k hk
    exact hs k (Nat.lt_of_lt_of_le hk (Nat.sub_le _ 1))
  all_goals exact hs

/-! ## The bound of `pc` (R26 (g)) -/

/-- A fetch in bounds and a call site as return address keep `pc` within a skip of the last fetch. -/
theorem PcMove.le_pcBound {m : List Host.Cell} {s : State} {w p : Word} (h : PcMove s w p)
    (hpc : s.pc.toNat ≤ 0x0FFE) (hs : StackHoldsCallSites m s) : p.toNat ≤ 0x1002 := by
  cases h
  case advance | skip => bv_omega
  case target _ hp => rw [hp]; omega
  case resume hpos _ =>
    obtain ⟨hle, -⟩ := hs (s.sp.val - 1) (by omega)
    bv_omega

/-! ## The invariant of R26 -/

theorem runInvariant_reset (l : List Action) (n : Nat) : RunInvariant ((State.reset.setSchedule l).setDraws n) where
  delayZero := rfl
  soundZero := rfl
  indexZero := rfl
  screenDark i := by simp [State.cell, State.pixel, State.reset]
  pcBound := (by decide : (0x0200#16).toNat ≤ 0x1002)
  returnAddresses k h := absurd h (Nat.not_lt_zero k)
  emptyBeforeRun _ := rfl

namespace RunInvariant

variable {s t : State}

theorem setSchedule (h : RunInvariant s) (l : List Action) : RunInvariant (s.setSchedule l) := { h with }

theorem setKey (h : RunInvariant s) (k : Fin 16) (b : Bool) : RunInvariant (s.setKey k b) := { h with }

theorem tick (h : RunInvariant s) : RunInvariant (tick s) :=
  { h with
    delayZero := by simp [Machine.tick, countDown, h.delayZero]
    soundZero := by simp [Machine.tick, countDown, h.soundZero] }

/-- A Load finds the stack empty, so the memory it writes holds no return address. -/
theorem load {src : ImageSource} (h : RunInvariant s) (hload : load src s = .next t) : RunInvariant t := by
  obtain ⟨hfresh, rfl⟩ := load_next hload
  obtain ⟨bytes, n, p, -, heq⟩ := loadImage_eq src s
  have hsp : s.sp = 0 := h.emptyBeforeRun (by simp [hfresh])
  rw [heq]
  exact { h with
    returnAddresses := fun k hk => absurd hk (by simp [hsp])
    emptyBeforeRun := fun _ => hsp }

/-- The three clauses that `Exec` and the advance may touch, after an instruction fetched in `s`. -/
theorem executed {w : Word} {i : Instr} {u : State} (h : RunInvariant s) (hf : s.fault = none)
    (hw : s.fetchedWord = some w) (hd : decodeWord w = .ok i) (hu : ExecEffect (s.setOpcode w) i u) :
    (∀ c, (advanceAfter i u).cell c = false) ∧ (advanceAfter i u).pc.toNat ≤ 0x1002 ∧
      StackHoldsCallSites s.mem (advanceAfter i u) := by
  have hstack : StackHoldsCallSites s.mem (s.setOpcode w) := h.returnAddresses
  have hpc : (advanceAfter i u).pc.toNat ≤ 0x1002 := by
    obtain ⟨-, hmove⟩ | ⟨-, hsame⟩ := hu.pc_advanceAfter hf hd
    · exact hmove.le_pcBound (State.fetchedWord_eq_some hw).1 hstack
    · rw [hsame]; exact h.pcBound
  rw [advanceAfter_eq_setPc]
  exact ⟨hu.cell_dark h.screenDark, hpc,
    hu.stackHoldsCallSites hstack fun nnn hi => isCallSite_of_fetch hw (hi ▸ hd)⟩

theorem stepCycle (h : RunInvariant s) (hf : s.fault = none) (hcyc : stepCycle s = .next t) :
    (∀ c, t.cell c = false) ∧ t.pc.toNat ≤ 0x1002 ∧ StackHoldsCallSites s.mem t := by
  obtain ⟨-, rfl⟩ | ⟨w, e, -, -, rfl⟩ | ⟨w, i, u, hw, hd, hu, rfl⟩ := stepCycle_cases hcyc
  · exact ⟨h.screenDark, h.pcBound, h.returnAddresses⟩
  · exact ⟨h.screenDark, h.pcBound, h.returnAddresses⟩
  · exact h.executed hf hw hd hu

theorem engineStep (h : RunInvariant s) (hstep : engineStep s = .next t) : RunInvariant t := by
  obtain ⟨hf, -, hcyc⟩ := engineStep_next hstep
  have hrun : RunInvariant (s.setPhase .running) := { h with emptyBeforeRun := fun hne => absurd rfl hne }
  obtain ⟨hdark, hpc, hstack⟩ := hrun.stepCycle hf hcyc
  rw [engineStep_frame hstep]
  exact { hrun with
    screenDark := hdark
    pcBound := hpc
    returnAddresses := hstack
    emptyBeforeRun := fun hne => absurd rfl hne }

theorem act {a : Action} (h : RunInvariant s) (ha : act a s = .next t) : RunInvariant t := by
  cases a
  case step => exact h.engineStep ha
  case tick => cases ha; exact h.tick
  case setKey k b => cases ha; exact h.setKey k b
  case load src => exact h.load ha
  case reset => cases ha; exact runInvariant_reset s.schedule s.draws

end RunInvariant

/-- Settles O49: each action keeps the invariant, and so does taking it off the schedule. -/
theorem stepKeepsRunInvariant : Obligations.StepKeepsRunInvariant := by
  intro s t h hstep
  exact (h.setSchedule s.schedule.tail).act hstep

/-- Settles O50: the reset state, its schedule replaced. -/
theorem resetMeetsRunInvariant : Obligations.ResetMeetsRunInvariant := by
  intro l
  exact ⟨runInvariant_reset l 0, rfl⟩

end Sys2Proof.Machine
end

section
/-! Encoding (30_encoding.md): decoding inverts encoding, the decoder follows the opcode table, and a listing line
assembles back to its word. -/

namespace Sys2Proof

/-! ## Decoding an encoded instruction (R45 to R47) -/

/-- By format (R47): the family nibble selects the decoder's arm, the format's fixed nibbles its leaf, and the fields
of a built word are what it was built from. -/
theorem decodeWord_encode (i : Instr) : decodeWord (encode i) = .ok i := by
  cases i
  case cls | ret => decide
  case jp | call | undefAnnn => simp [encode, decodeWord]
  case seImm | sneImm | ldImm | addImm => simp [encode, decodeWord]
  case undefEx9E | undefExA1 | undefFx07 | undefFx0A | undefFx15 | undefFx18 | undefFx33 | undefFx55 | undefFx65 =>
    simp [encode, decodeWord]
  case seReg | sneReg | undefDxyn => simp [encode, decodeWord]
  case ldReg | orReg | andReg | xorReg | addReg | sub | shr | subn => simp [encode, decodeWord]

/-- Decoding bytes that start with a decodable word (R35, R45). -/
theorem decode_wordBytes_append {w : Word} {i : Instr} (h : decodeWord w = .ok i) (rest : List Byte) :
    decode (wordBytes w ++ rest) = .ok (i, rest) := by
  simp only [wordBytes, List.cons_append, List.nil_append, decode, joinBytes_high_low, h]

/-- Settles O1: the word by its format, the bytes through the word they join to. -/
theorem decodeInvertsEncode : Obligations.DecodeInvertsEncode := by
  intro i
  exact ⟨decodeWord_encode i, decode_wordBytes_append (decodeWord_encode i)⟩

/-- Settles O2: each leaf of the decoder rebuilds the word from its fields. -/
theorem encodeInvertsDecode : Obligations.EncodeInvertsDecode := by
  intro w i h
  exact encode_of_decodeWord h

/-! ## The opcode table (R50, R91) -/

/-- One law per constructor, collected (R50, R91). -/
theorem encode_and_row_mask (i : Instr) : encode i &&& i.row.mask = i.row.value :=
  match i with
  | .cls => Laws.RowOfWord.cls
  | .ret => Laws.RowOfWord.ret
  | .jp nnn => Laws.RowOfWord.jp nnn
  | .call nnn => Laws.RowOfWord.call nnn
  | .seImm x kk => Laws.RowOfWord.seImm x kk
  | .sneImm x kk => Laws.RowOfWord.sneImm x kk
  | .seReg x y => Laws.RowOfWord.seReg x y
  | .ldImm x kk => Laws.RowOfWord.ldImm x kk
  | .addImm x kk => Laws.RowOfWord.addImm x kk
  | .ldReg x y => Laws.RowOfWord.ldReg x y
  | .orReg x y => Laws.RowOfWord.orReg x y
  | .andReg x y => Laws.RowOfWord.andReg x y
  | .xorReg x y => Laws.RowOfWord.xorReg x y
  | .addReg x y => Laws.RowOfWord.addReg x y
  | .sub x y => Laws.RowOfWord.sub x y
  | .shr x y => Laws.RowOfWord.shr x y
  | .subn x y => Laws.RowOfWord.subn x y
  | .sneReg x y => Laws.RowOfWord.sneReg x y
  | .undefAnnn nnn => Laws.RowOfWord.undefAnnn nnn
  | .undefDxyn x y n => Laws.RowOfWord.undefDxyn x y n
  | .undefEx9E x => Laws.RowOfWord.undefEx9E x
  | .undefExA1 x => Laws.RowOfWord.undefExA1 x
  | .undefFx07 x => Laws.RowOfWord.undefFx07 x
  | .undefFx0A x => Laws.RowOfWord.undefFx0A x
  | .undefFx15 x => Laws.RowOfWord.undefFx15 x
  | .undefFx18 x => Laws.RowOfWord.undefFx18 x
  | .undefFx33 x => Laws.RowOfWord.undefFx33 x
  | .undefFx55 x => Laws.RowOfWord.undefFx55 x
  | .undefFx65 x => Laws.RowOfWord.undefFx65 x

section MaskedFields

variable {w m v : Word} (h : w &&& m = v)
include h

/-- A mask that covers a field fixes it to the field of the match. -/
theorem extractLsb'_of_and_eq {start len : Nat} (hm : m.extractLsb' start len = BitVec.allOnes len) :
    w.extractLsb' start len = v.extractLsb' start len := by
  rw [← h, BitVec.extractLsb'_and, hm, BitVec.and_allOnes]

theorem fieldF_of_and_eq (hm : fieldF m = 0xF#4) : fieldF w = fieldF v := extractLsb'_of_and_eq h hm

theorem fieldN_of_and_eq (hm : fieldN m = 0xF#4) : fieldN w = fieldN v := extractLsb'_of_and_eq h hm

theorem fieldKK_of_and_eq (hm : fieldKK m = 0xFF#8) : fieldKK w = fieldKK v := extractLsb'_of_and_eq h hm

theorem eq_of_and_eq (hm : m = BitVec.allOnes 16) : w = v := by
  rw [← h, hm, BitVec.and_allOnes]

end MaskedFields

/-- A word in an instruction's row decodes into that row: beside the family nibble, the masks fix the whole word,
nothing, `n` or `kk`, which is what the decoder's arm looks at. -/
theorem decodeWord_of_row {w : Word} (i : Instr) (h : w &&& i.row.mask = i.row.value) :
    ∃ j, decodeWord w = .ok j ∧ j.row = i.row := by
  cases i <;> simp only [Instr.row] at h
  case cls | ret =>
    obtain rfl := eq_of_and_eq h (by decide)
    exact ⟨_, by decide, rfl⟩
  case jp | call | seImm | sneImm | ldImm | addImm | undefAnnn | undefDxyn =>
    rw [decodeWord, fieldF_of_and_eq h (by decide)]
    simp [fieldF, Instr.row]
  case seReg | sneReg | ldReg | orReg | andReg | xorReg | addReg | sub | shr | subn =>
    rw [decodeWord, fieldF_of_and_eq h (by decide), fieldN_of_and_eq h (by decide)]
    simp [fieldF, fieldN, Instr.row]
  case undefEx9E | undefExA1 | undefFx07 | undefFx0A | undefFx15 | undefFx18 | undefFx33 | undefFx55 | undefFx65 =>
    rw [decodeWord, fieldF_of_and_eq h (by decide), fieldKK_of_and_eq h (by decide)]
    simp [fieldF, fieldKK, Instr.row]

/-- Every row of the table is the row of an instruction. -/
theorem exists_row_of_mem_opcodeTable {r : OpcodeRow} (hr : r ∈ opcodeTable) : ∃ i : Instr, i.row = r := by
  have hall : ∀ q ∈ opcodeTable, ∃ i : Instr, i.row = q := by simp [opcodeTable]
  exact hall r hr

theorem decodeWord_of_mem_opcodeTable {w : Word} {r : OpcodeRow} (hr : r ∈ opcodeTable)
    (h : w &&& r.mask = r.value) : ∃ i, decodeWord w = .ok i ∧ i.row = r := by
  obtain ⟨i, rfl⟩ := exists_row_of_mem_opcodeTable hr
  exact decodeWord_of_row i h

/-- Settles O3: a word in two rows decodes into both, and it decodes to one instruction. -/
theorem decodeFollowsOpcodeTable : Obligations.DecodeFollowsOpcodeTable := by
  refine ⟨fun w i hd => ?_, fun w r hr h => decodeWord_of_mem_opcodeTable hr h, fun w r q hr hq hwr hwq => ?_⟩
  · rw [← encode_of_decodeWord hd]
    exact encode_and_row_mask i
  · obtain ⟨i, hi, rfl⟩ := decodeWord_of_mem_opcodeTable hr hwr
    obtain ⟨j, hj, rfl⟩ := decodeWord_of_mem_opcodeTable hq hwq
    rw [Except.ok.inj (hi.symm.trans hj)]

/-! ## Assembler lines (R53) -/

@[simp] theorem regInRange_val (x : RegIdx) : regInRange x.val = true := decide_eq_true x.isLt

@[simp] theorem kkInRange_toNat (kk : Byte) : kkInRange kk.toNat = true := decide_eq_true kk.isLt

@[simp] theorem nnnInRange_toNat (nnn : BitVec 12) : nnnInRange nnn.toNat = true := decide_eq_true nnn.isLt

@[simp] theorem asmReg_val (x : RegIdx) : asmReg x.val = x := Fin.ofNat_val_eq_self x

theorem AsmLine.assemble_of_wellFormed {l : AsmLine} (h : l.wellFormed = true) : l.assemble = l.word := if_pos h

/-- An instruction's operands are in range by their types, and so is the word after `DW`. -/
theorem Instr.listing_wellFormed (i : Instr) : i.listing.wellFormed = true := by
  have hdw := (encode i).isLt
  cases i
  case cls | ret => rfl
  case jp | call => simp [Instr.listing, AsmLine.wellFormed]
  case seImm | sneImm | ldImm | addImm => simp [Instr.listing, AsmLine.wellFormed]
  case seReg | sneReg | ldReg | orReg | andReg | xorReg | addReg | sub | shr | subn =>
    simp [Instr.listing, AsmLine.wellFormed]
  all_goals exact decide_eq_true hdw

/-- Reading an operand back from its number gives the operand, and a `DW` line is the word itself. -/
theorem Instr.listing_word (i : Instr) : i.listing.word = some (encode i) := by
  have hdw : BitVec.ofNat 16 (encode i).toNat = encode i := by rw [BitVec.ofNat_toNat, BitVec.setWidth_eq]
  cases i
  case cls | ret => rfl
  case jp | call => simp [Instr.listing, AsmLine.word]
  case seImm | sneImm | ldImm | addImm => simp [Instr.listing, AsmLine.word]
  case seReg | sneReg | ldReg | orReg | andReg | xorReg | addReg | sub | shr | subn =>
    simp [Instr.listing, AsmLine.word]
  all_goals exact congrArg some hdw

/-- Settles O6: a listing is well formed and spells its word; plain `SHR Vx` likewise, with `y = 0`. -/
theorem listingAssemblesBack : Obligations.ListingAssemblesBack := by
  refine ⟨fun i => ⟨i.listing_wellFormed, ?_⟩, fun x => ?_⟩
  · rw [AsmLine.assemble_of_wellFormed i.listing_wellFormed, i.listing_word]
  · have hwf : AsmLine.wellFormed ⟨.shr, [.reg x.val]⟩ = true := regInRange_val x
    simp only [AsmLine.assemble_of_wellFormed hwf, AsmLine.word, asmReg_val]

end Sys2Proof
end

section
/-! The instruction cycle (40_cycle.md): an enabled Step completes, what executing a decoded and an Unknown word gives,
what `Exec` writes, and the halt after a fault. -/

namespace Sys2Proof.Machine

/-! ## Frames, one written field at a time -/

theorem AgreeOutside.refl (s : State) : AgreeOutside [] s s := by
  intro f _
  cases f
  case mem => exact fun _ => rfl
  all_goals rfl

namespace AgreeOutside

variable {fs : List Field} {s t : State}

/-- A further update that keeps every field but `g` adds `g` to the fields written. -/
theorem cons {u : State} {g : Field} (h : AgreeOutside fs s t)
    (hkeep : ∀ f, f ≠ g → SameField f s t → SameField f s u) : AgreeOutside (g :: fs) s u := by
  intro f hf
  obtain ⟨hg, hfs⟩ := not_or.mp (mt List.mem_cons.mpr hf)
  exact hkeep f hg (h f hfs)

theorem setOpcode (h : AgreeOutside fs s t) (w : Word) : AgreeOutside (.opcode :: fs) s (t.setOpcode w) := by
  refine h.cons fun f hne hsame => ?_
  cases f
  case opcode => exact absurd rfl hne
  all_goals exact hsame

theorem setPhase (h : AgreeOutside fs s t) (p : RunPhase) : AgreeOutside (.phase :: fs) s (t.setPhase p) := by
  refine h.cons fun f hne hsame => ?_
  cases f
  case phase => exact absurd rfl hne
  all_goals exact hsame

theorem setSchedule (h : AgreeOutside fs s t) (l : List Action) :
    AgreeOutside (.schedule :: fs) s (t.setSchedule l) := by
  refine h.cons fun f hne hsame => ?_
  cases f
  case schedule => exact absurd rfl hne
  all_goals exact hsame

theorem takeFault (h : AgreeOutside fs s t) (c : FaultCause) (v : Word) :
    AgreeOutside (.fault :: fs) s (t.takeFault c v) := by
  refine h.cons fun f hne hsame => ?_
  cases f
  case fault => exact absurd rfl hne
  all_goals exact hsame

end AgreeOutside

/-! ## Every part of an enabled Step completes (R60, R65) -/

theorem execRet_completes (s : State) : ∃ t, execRet s = .next t := by
  unfold execRet
  cases s.pop <;> exact ⟨_, rfl⟩

theorem execCall_completes (nnn : BitVec 12) (s : State) : ∃ t, execCall nnn s = .next t := by
  unfold execCall
  cases s.push s.pc <;> exact ⟨_, rfl⟩

/-- No arm of `exec` stops; only RET and CALL look at the state to choose their next one. -/
theorem exec_completes (i : Instr) (s : State) : ∃ t, exec i s = .next t := by
  cases i
  case ret => exact execRet_completes s
  case call nnn => exact execCall_completes nnn s
  all_goals exact ⟨_, rfl⟩

theorem executeInstr_of_exec {i : Instr} {s t : State} (h : exec i s = .next t) :
    executeInstr i s = .next (advanceAfter i t) := by
  rw [executeInstr, h]

theorem executeWord_completes (w : Word) (s : State) : ∃ t, executeWord w s = .next t := by
  cases hd : decodeWord w with
  | error e => exact ⟨_, executeWord_of_error hd s⟩
  | ok i =>
    obtain ⟨t, ht⟩ := exec_completes i (s.setOpcode w)
    exact ⟨_, (executeWord_of_decode hd s).trans (executeInstr_of_exec ht)⟩

theorem stepCycle_completes (s : State) : ∃ t, stepCycle s = .next t := by
  unfold stepCycle
  cases s.fetchedWord with
  | none => exact ⟨_, rfl⟩
  | some w => exact executeWord_completes w s

/-- Settles O32: an enabled step is one cycle, and the cycle completes. -/
theorem enabledStepCompletes : Obligations.EnabledStepCompletes := by
  intro s hen
  rw [step_of_enabled hen]
  exact stepCycle_completes _

/-! ## Unknown words (R62, R101) -/

theorem hasOperation_of_isUnknown {w : Word} {i : Instr} (hd : decodeWord w = .ok i) (hw : isUnknown w = true) :
    i.hasOperation = false := by
  simpa [isUnknown, hd] using hw

theorem exec_of_not_hasOperation {i : Instr} (hi : i.hasOperation = false) (s : State) :
    exec i s = .next (s.takeFault .unknownOpcode s.opcode) := by
  cases i
  case undefAnnn | undefDxyn | undefEx9E | undefExA1 | undefFx07 | undefFx0A | undefFx15 | undefFx18 | undefFx33
    | undefFx55 | undefFx65 => rfl
  all_goals cases hi

/-- Whether the word is of no row or a pattern of R91, the state is the same (log 6). -/
theorem executeWord_of_isUnknown {w : Word} (hw : isUnknown w = true) (s : State) :
    executeWord w s = .next ((s.setOpcode w).takeFault .unknownOpcode w) := by
  cases hd : decodeWord w with
  | error e => exact executeWord_of_error hd s
  | ok i =>
    have hexec := exec_of_not_hasOperation (hasOperation_of_isUnknown hd hw) (s.setOpcode w)
    rw [executeWord_of_decode hd, executeInstr_of_exec hexec]
    exact congrArg Host.Outcome.next (advanceAfter_of_some rfl i)

/-- Settles O30: the raise on the state with the schedule popped, the phase running and the opcode written. -/
theorem unknownWordFaults : Obligations.UnknownWordFaults := by
  intro s w hready hw
  rw [step_of_ready hready, executeWord_of_isUnknown hw]
  exact ⟨_, rfl, rfl, rfl, rfl, rfl,
    ((((AgreeOutside.refl s).setSchedule _).setPhase _).setOpcode w).takeFault .unknownOpcode w⟩

/-! ## The halt after a fault (R66, R109) -/

theorem engineStep_of_fault {s : State} {r : FaultRecord} (h : s.fault = some r) :
    engineStep s = .fault (.engineHalted r) := by
  rw [engineStep, h]

/-- A Step does not run, and no other action but Reset writes the latch (R27). -/
theorem act_keeps_fault {a : Action} {s t : State} {r : FaultRecord} (hf : s.fault = some r) (hreset : a ≠ .reset)
    (h : act a s = .next t) : t.fault = some r := by
  by_cases hstep : a = .step
  · subst hstep
    cases (engineStep_of_fault hf).symm.trans h
  · obtain ⟨-, -, -, -, hother, -, -⟩ := writersOfEachElement a s t h hreset
    obtain ⟨-, -, -, hsame⟩ := hother hstep
    exact Eq.trans hsame hf

/-- Settles O34: by the next action. -/
theorem faultHaltsUntilReset : Obligations.FaultHaltsUntilReset := by
  intro s r hf
  refine ⟨fun hstep => ?_, fun t hreset h => ?_, fun hreset => ?_⟩
  · rw [step, hstep]
    exact engineStep_of_fault (s := s.popSchedule) hf
  · exact act_keeps_fault (s := s.popSchedule) hf hreset h
  · rw [step, hreset]
    exact ⟨resetAction s.popSchedule, rfl, rfl⟩

/-! ## What `Exec` writes (R63) -/

namespace ExecEffect

variable {i : Instr} {s t : State}

theorem agreeOutside (h : ExecEffect s i t) : AgreeOutside [.V, .pc, .sp, .stack, .fb, .fault] s t := by
  intro f hf
  rw [h.frame]
  cases f
  case V | pc | sp | stack | fb | fault => simp at hf
  case mem => exact fun _ => rfl
  all_goals rfl

/-- A raise writes the latch only, and comes from RET, CALL or a pattern of R91. -/
theorem raise_of_fault_ne (h : ExecEffect s i t) (hne : t.fault ≠ s.fault) :
    AgreeOutside [.fault] s t ∧ (i = .ret ∨ (∃ nnn, i = .call nnn) ∨ i.hasOperation = false) := by
  cases h
  case overflow nnn hs => exact ⟨(AgreeOutside.refl s).takeFault _ _, .inr (.inl ⟨nnn, rfl⟩)⟩
  case underflow hs => exact ⟨(AgreeOutside.refl s).takeFault _ _, .inl rfl⟩
  case undefined hi => exact ⟨(AgreeOutside.refl s).takeFault _ _, .inr (.inr hi)⟩
  all_goals exact absurd rfl hne

end ExecEffect

/-- Settles O35: by the effects of `Exec`. -/
theorem execWritesOnly : Obligations.ExecWritesOnly := by
  intro i s t h
  exact ⟨(exec_effect h).agreeOutside, (exec_effect h).raise_of_fault_ne⟩

/-! ## The advance after `Exec` (R64) -/

theorem suppressesAdvance_iff (i : Instr) :
    suppressesAdvance i = true ↔ (∃ nnn, i = .jp nnn) ∨ ∃ nnn, i = .call nnn := by
  cases i <;> simp [suppressesAdvance]

theorem advanceAfter_of_fault_or_suppressed {i : Instr} {s : State}
    (h : s.fault ≠ none ∨ suppressesAdvance i = true) : advanceAfter i s = s := by
  cases hf : s.fault with
  | some r => exact advanceAfter_of_some hf i
  | none => rw [advanceAfter_of_none hf, h.resolve_left (absurd hf), if_pos rfl]

/-- Settles O28: the step executes the word it fetched, and the advance is read off its two exceptions. -/
theorem stepRunsDecodedInstruction : Obligations.StepRunsDecodedInstruction := by
  intro s w i hready hd
  obtain ⟨t, ht⟩ := exec_completes i ((s.popSchedule.setPhase .running).setOpcode w)
  refine ⟨t, ht, ?_⟩
  rw [step_of_ready hready, executeWord_of_decode hd, executeInstr_of_exec ht]
  split
  next hstay =>
    rw [← suppressesAdvance_iff] at hstay
    rw [advanceAfter_of_fault_or_suppressed hstay]
  next hmove =>
    rw [← suppressesAdvance_iff] at hmove
    obtain ⟨hf, hsup⟩ := not_or.mp hmove
    rw [advanceAfter_of_none (not_not.mp hf), if_neg hsup]
    rfl

end Sys2Proof.Machine
end

section
/-! The Step of an instruction that does not redirect control follows from its `Exec` (40_cycle.md R64), and Clear
Display (41_display.md). -/

namespace Sys2Proof.Machine

/-! ## The frame of a Step, from the frame of its `Exec` -/

namespace AgreeOutside

variable {fs : List Field} {s t : State}

theorem setPc (h : AgreeOutside fs s t) (p : Word) : AgreeOutside (.pc :: fs) s (t.setPc p) := by
  refine h.cons fun f hne hsame => ?_
  cases f
  case pc => exact absurd rfl hne
  all_goals exact hsame

/-- A frame from the state with the opcode register written is one from the state before that write. -/
theorem of_setOpcode {w : Word} (h : AgreeOutside fs (s.setOpcode w) t) : AgreeOutside (.opcode :: fs) s t := by
  intro f hf
  obtain ⟨hop, hfs⟩ := not_or.mp (mt List.mem_cons.mpr hf)
  have hsame := h f hfs
  cases f
  case opcode => exact absurd rfl hop
  all_goals exact hsame

end AgreeOutside

/-! ## An instruction that does not redirect control (R64) -/

theorem executeWord_of_advances {w : Word} {i : Instr} {s t : State} (hd : decodeWord w = .ok i)
    (hi : suppressesAdvance i = false) (hexec : exec i (s.setOpcode w) = .next t) (hf : t.fault = none) :
    executeWord w s = .next (t.setPc (t.pc + 2#16)) := by
  rw [executeWord_of_decode hd, executeInstr_of_exec hexec, advanceAfter_of_none hf, hi]
  rfl

/-- The Step half of the rule follows from the `Exec` half, run on the state with the opcode register written, when
`Exec` leaves `pc`, the opcode register and the latch alone, and the effect speaks of neither of the first two. -/
theorem advancingRule_of_exec {i : Instr} {w : Nat} {writes : List Field} {effect : State → State → Prop}
    (hd : decodeWord (BitVec.ofNat 16 w) = .ok i) (hi : suppressesAdvance i = false)
    (hpc : .pc ∉ writes) (hopcode : .opcode ∉ writes) (hfault : .fault ∉ writes)
    (heffect : ∀ s t v p, effect (s.setOpcode v) t → effect s (t.setPc p))
    (hexec : ∀ s, ∃ t, exec i s = .next t ∧ effect s t ∧ AgreeOutside writes s t) :
    AdvancingRule i w writes effect := by
  refine ⟨hexec, fun s hf => ?_⟩
  obtain ⟨t, hnext, heff, hframe⟩ := hexec (s.setOpcode (BitVec.ofNat 16 w))
  have htpc : t.pc = s.pc := hframe .pc hpc
  have htopcode : t.opcode = BitVec.ofNat 16 w := hframe .opcode hopcode
  have htfault : t.fault = none := (hframe .fault hfault).trans hf
  exact ⟨t.setPc (t.pc + 2#16), executeWord_of_advances hd hi hnext htfault, heffect s t _ _ heff, htopcode,
    congrArg (· + 2#16) htpc, hframe.of_setOpcode.setPc _⟩

/-! ## Clear Display (R70) -/

theorem decodeWord_cls : decodeWord 0x00E0#16 = .ok .cls := by decide

theorem exec_cls (s : State) : exec .cls s = .next s.clearFb := rfl

theorem agreeOutside_clearFb (s : State) : AgreeOutside [.fb] s s.clearFb := by
  refine (AgreeOutside.refl s).cons fun f hne hsame => ?_
  cases f
  case fb => exact absurd rfl hne
  all_goals exact hsame

/-- Settles O7: `Exec` clears the framebuffer, and the Step adds the opcode register and the advance. -/
theorem clearDisplay : Obligations.ClearDisplay := by
  have hexec (s : State) : ∃ t, exec .cls s = .next t ∧ (∀ i, t.cell i = false) ∧ AgreeOutside [.fb] s t :=
    ⟨s.clearFb, exec_cls s, State.cell_clearFb s, agreeOutside_clearFb s⟩
  exact advancingRule_of_exec decodeWord_cls rfl (by decide) (by decide) (by decide) (fun _ _ _ _ hdark => hdark) hexec

end Sys2Proof.Machine
end

section
/-! Control transfer (42_flow.md): Jump, Call and Return on `Exec` and on the Step, and Return undoing Call. -/

namespace Sys2Proof.Machine

/-! ## Frames of two updates, and of fewer or more fields -/

theorem sameField_trans {f : Field} {s t u : State} (h : SameField f s t) (h' : SameField f t u) :
    SameField f s u := by
  cases f
  case mem => exact fun a => (h' a).trans (h a)
  all_goals exact Eq.trans h' h

namespace AgreeOutside

variable {fs gs : List Field} {s t u : State}

theorem mono (h : AgreeOutside fs s t) (hsub : fs ⊆ gs) : AgreeOutside gs s t :=
  fun f hf => h f fun hmem => hf (hsub hmem)

theorem trans (h : AgreeOutside fs s t) (h' : AgreeOutside gs t u) : AgreeOutside (fs ++ gs) s u := by
  intro f hf
  obtain ⟨hfs, hgs⟩ := not_or.mp (mt List.mem_append.mpr hf)
  exact sameField_trans (h f hfs) (h' f hgs)

/-- A field that was written but ends as it began leaves the frame. -/
theorem of_cons {g : Field} (h : AgreeOutside (g :: fs) s t) (hg : SameField g s t) : AgreeOutside fs s t := by
  intro f hf
  by_cases hfg : f = g
  · exact hfg ▸ hg
  · exact h f (List.not_mem_cons_of_ne_of_not_mem hfg hf)

end AgreeOutside

theorem agreeOutside_stack_sp_pc (s : State) (v : Vector Word 16) (n : Fin 17) (p : Word) :
    AgreeOutside [.stack, .sp, .pc] s { s with stack := v, sp := n, pc := p } := by
  intro f hf
  cases f
  case stack | sp | pc => simp at hf
  case mem => exact fun _ => rfl
  all_goals rfl

/-! ## An instruction after which no advance follows (R64) -/

theorem executeWord_of_suppressed {w : Word} {i : Instr} {s t : State} (hd : decodeWord w = .ok i)
    (hi : suppressesAdvance i = true) (hexec : exec i (s.setOpcode w) = .next t) : executeWord w s = .next t := by
  rw [executeWord_of_decode hd, executeInstr_of_exec hexec, advanceAfter_of_fault_or_suppressed (.inr hi)]

/-! ## Jump (R72) -/

theorem decodeWord_jp (nnn : BitVec 12) : decodeWord (BitVec.ofNat 16 (0x1000 + nnn.toNat)) = .ok (.jp nnn) :=
  wordNNN_eq_ofNat 1#4 nnn ▸ decodeWord_encode (.jp nnn)

theorem exec_jp (nnn : BitVec 12) (s : State) : exec (.jp nnn) s = .next (s.setPc (addrOperand nnn)) := rfl

/-- Settles O9: `Exec` writes `pc`, and in the Step only the opcode register joins it. -/
theorem jumpSetsPc : Obligations.JumpSetsPc := by
  refine fun nnn => ⟨fun s => ?_, fun s _ => ?_⟩
  · exact ⟨_, exec_jp nnn s, addrOperand_toNat nnn, (AgreeOutside.refl s).setPc _⟩
  · exact ⟨_, executeWord_of_suppressed (decodeWord_jp nnn) rfl (exec_jp nnn _), addrOperand_toNat nnn, rfl,
      ((AgreeOutside.refl s).setOpcode _).setPc _⟩

/-! ## Call with room on the stack (R73) -/

theorem decodeWord_call (nnn : BitVec 12) : decodeWord (BitVec.ofNat 16 (0x2000 + nnn.toNat)) = .ok (.call nnn) :=
  wordNNN_eq_ofNat 2#4 nnn ▸ decodeWord_encode (.call nnn)

/-- `t` is `s` after a Call of `nnn`, as far as `pc` and the stack go: `pc` at the target, the old `pc` pushed and the
other entries kept. -/
def Calls (nnn : BitVec 12) (s t : State) : Prop :=
  t.pc.toNat = nnn.toNat ∧ t.sp.val = s.sp.val + 1 ∧ t.stack[s.sp.val]? = some s.pc ∧
    ∀ k, k ≠ s.sp.val → t.stack[k]? = s.stack[k]?

theorem exec_call_of_room {s : State} (nnn : BitVec 12) (hroom : s.sp.val < 16) :
    ∃ t, exec (.call nnn) s = .next t ∧ Calls nnn s t ∧ AgreeOutside [.pc, .sp, .stack] s t := by
  obtain ⟨t, ht⟩ := exec_completes (.call nnn) s
  refine ⟨t, ht, ?_⟩
  cases exec_effect ht
  case call hs =>
    refine ⟨⟨addrOperand_toNat nnn, rfl, ?_, fun k hk => ?_⟩,
      (agreeOutside_stack_sp_pc s _ _ _).mono (by decide)⟩
    · exact Vector.getElem?_set_self hs
    · exact Vector.getElem?_set_ne hs hk.symm
  case overflow hfull => omega
  all_goals contradiction

/-- The Step of a Call: `Exec` on the state with the opcode register written. -/
theorem executeWord_call_of_room {s : State} (nnn : BitVec 12) (hroom : s.sp.val < 16) :
    ∃ t, executeWord (BitVec.ofNat 16 (0x2000 + nnn.toNat)) s = .next t ∧ Calls nnn s t ∧
      t.opcode = BitVec.ofNat 16 (0x2000 + nnn.toNat) ∧ AgreeOutside [.pc, .sp, .stack, .opcode] s t := by
  obtain ⟨t, hexec, hcalls, hframe⟩ :=
    exec_call_of_room (s := s.setOpcode (BitVec.ofNat 16 (0x2000 + nnn.toNat))) nnn hroom
  exact ⟨t, executeWord_of_suppressed (decodeWord_call nnn) rfl hexec, hcalls, hframe .opcode (by decide),
    hframe.of_setOpcode.mono (by decide)⟩

/-- Settles O10: the push with room on the stack, on `Exec` and on the Step. -/
theorem callPushesItsAddress : Obligations.CallPushesItsAddress := by
  refine fun nnn => ⟨fun s hroom => ?_, fun s hroom _ => ?_⟩
  · obtain ⟨t, hexec, ⟨hpc, hsp, htop, hkeep⟩, hframe⟩ := exec_call_of_room nnn hroom
    exact ⟨t, hexec, hpc, hsp, htop, hkeep, hframe⟩
  · obtain ⟨t, hstep, ⟨hpc, hsp, htop, hkeep⟩, hopcode, hframe⟩ := executeWord_call_of_room nnn hroom
    exact ⟨t, hstep, hpc, hsp, htop, hkeep, hopcode, hframe⟩

/-! ## Return with an entry in use (R71) -/

section

variable {s : State} {k : Nat} {c : Word} (hsp : s.sp.val = k + 1) (htop : s.stack[k]? = some c)
include hsp htop

theorem exec_ret_of_top :
    ∃ t, exec .ret s = .next t ∧ t.sp.val = k ∧ t.pc = c ∧ AgreeOutside [.sp, .pc] s t := by
  obtain ⟨t, ht⟩ := exec_completes .ret s
  refine ⟨t, ht, ?_⟩
  cases exec_effect ht
  case ret hs =>
    have hk : s.sp.val - 1 = k := by omega
    have hpc : s.stack[s.sp.val - 1]'(by omega) = c := Vector.getElem_eq_iff.mpr (hk ▸ htop)
    exact ⟨hk, hpc, (agreeOutside_stack_sp_pc s s.stack _ _).of_cons rfl⟩
  case underflow hempty => omega
  all_goals contradiction

/-- The Step of a Return adds the opcode register and the advance (R64, decision D1). -/
theorem executeWord_ret_of_top (hf : s.fault = none) :
    ∃ t, executeWord 0x00EE s = .next t ∧ t.sp.val = k ∧ t.pc = c + 2#16 ∧ t.opcode = 0x00EE ∧
      AgreeOutside [.sp, .pc, .opcode] s t := by
  obtain ⟨t, hexec, htsp, htpc, hframe⟩ := exec_ret_of_top (s := s.setOpcode 0x00EE) hsp htop
  have htfault : t.fault = none := (hframe .fault (by decide)).trans hf
  exact ⟨t.setPc (t.pc + 2#16), executeWord_of_advances decodeWord_ret rfl hexec htfault, htsp,
    congrArg (· + 2#16) htpc, hframe .opcode (by decide), (hframe.of_setOpcode.setPc _).mono (by decide)⟩

end

/-- Settles O8: the entry below a nonzero `sp` is the top of the stack. -/
theorem returnPopsAndResumes : Obligations.ReturnPopsAndResumes := by
  refine ⟨fun s h => ?_, fun s h hf => ?_⟩
  · exact exec_ret_of_top (by omega) (Vector.getElem?_eq_getElem _)
  · exact executeWord_ret_of_top (by omega) (Vector.getElem?_eq_getElem _) hf

/-! ## Return undoes Call (R74) -/

/-- On `Exec` nothing but the pushed entry is left of a Call once its Return has run. -/
theorem exec_ret_after_call {s : State} (nnn : BitVec 12) (hroom : s.sp.val < 16) :
    ∃ t u, exec (.call nnn) s = .next t ∧ exec .ret t = .next u ∧ u.pc = s.pc ∧ u.sp = s.sp ∧
      u.stack[s.sp.val]? = some s.pc ∧ (∀ k, k ≠ s.sp.val → u.stack[k]? = s.stack[k]?) ∧
      AgreeOutside [.stack] s u := by
  obtain ⟨t, hcall, ⟨-, htsp, htop, hkeep⟩, hframeCall⟩ := exec_call_of_room nnn hroom
  obtain ⟨u, hret, husp, hupc, hframeRet⟩ := exec_ret_of_top htsp htop
  have hsp : u.sp = s.sp := Fin.ext husp
  have hstack : u.stack = t.stack := hframeRet .stack (by decide)
  have hframe : AgreeOutside [.pc, .sp, .stack] s u := (hframeCall.trans hframeRet).mono (by decide)
  rw [← hstack] at htop hkeep
  exact ⟨t, u, hcall, hret, hupc, hsp, htop, hkeep, (hframe.of_cons hupc).of_cons hsp⟩

/-- On Steps a Return that finds the entry a Call pushed at the top of the stack resumes 2 after the Call. -/
theorem executeWord_ret_after_call {nnn : BitVec 12} {s t u : State} (hroom : s.sp.val < 16)
    (hcall : executeWord (BitVec.ofNat 16 (0x2000 + nnn.toNat)) s = .next t) (hf : u.fault = none)
    (hsp : u.sp = t.sp) (hstack : u.stack[s.sp.val]? = t.stack[s.sp.val]?) :
    ∃ v, executeWord 0x00EE u = .next v ∧ v.pc = s.pc + 2#16 ∧ v.sp = s.sp := by
  obtain ⟨t', hcall', ⟨-, htsp, htop, -⟩, -⟩ := executeWord_call_of_room nnn hroom
  obtain rfl : t' = t := Host.Outcome.next.inj (hcall'.symm.trans hcall)
  obtain ⟨v, hret, hvsp, hvpc, -⟩ := executeWord_ret_of_top (hsp ▸ htsp) (hstack.trans htop) hf
  exact ⟨v, hret, hvpc, Fin.ext hvsp⟩

/-- Settles O27: Return after Call, on `Exec` and on Steps. -/
theorem callReturnContract : Obligations.CallReturnContract := by
  refine ⟨fun nnn s hroom => exec_ret_after_call nnn hroom, fun nnn s t u hroom _ hcall hf hsp hstack => ?_⟩
  exact executeWord_ret_after_call hroom hcall hf hsp hstack

end Sys2Proof.Machine
end

section
/-! Conditional skips (43_skip.md): the Step of a skip follows from its `Exec`, and the words beside the two
register forms are Unknown. -/

namespace Sys2Proof.Machine

/-! ## The rule of a skip, from its `Exec` (R64, R79) -/

theorem agreeOutside_skipIf (c : Bool) (s : State) : AgreeOutside [.pc] s (skipIf c s) := by
  rw [skipIf_eq]
  exact (AgreeOutside.refl s).setPc _

section

variable {i : Instr} {cond : State → Prop} {c : State → Bool}
  (hexec : ∀ s, exec i s = .next (skipIf (c s) s)) (hc : ∀ s, c s = true ↔ cond s)
include hexec hc

theorem exec_skip (s : State) :
    ∃ t, exec i s = .next t ∧ AgreeOutside [.pc] s t ∧
      (cond s → t.pc = s.pc + 2#16) ∧ (¬ cond s → t.pc = s.pc) := by
  refine ⟨skipIf (c s) s, hexec s, agreeOutside_skipIf (c s) s, fun h => ?_, fun h => ?_⟩
  · rw [skipIf_pc, if_pos ((hc s).mpr h)]
  · rw [skipIf_pc, if_neg (mt (hc s).mp h)]

/-- The Step half is the `Exec` half, run on the state with the opcode register written, and the advance; the
condition does not look at the opcode register. -/
theorem skipRule_of_exec {w : Nat} (hd : decodeWord (BitVec.ofNat 16 w) = .ok i) (hi : i.isSkip = true)
    (hcond : ∀ s v, cond (s.setOpcode v) ↔ cond s) : SkipRule i w cond := by
  refine ⟨exec_skip hexec hc, fun s hf => ?_⟩
  obtain ⟨t, hnext, hframe, hskip, hstay⟩ := exec_skip hexec hc (s.setOpcode (BitVec.ofNat 16 w))
  rw [hcond] at hskip hstay
  have hadvance := Instr.suppressesAdvance_of_keepsPath (Instr.keepsPath_of_isSkip hi)
  have htfault : t.fault = none := (hframe .fault (by decide)).trans hf
  refine ⟨t.setPc (t.pc + 2#16), executeWord_of_advances hd hadvance hnext htfault, hframe .opcode (by decide),
    (hframe.of_setOpcode.setPc _).mono (by decide), fun h => ?_, fun h => ?_⟩
  · calc t.pc + 2#16 = s.pc + 2#16 + 2#16 := congrArg (· + 2#16) (hskip h)
      _ = s.pc + 4#16 := BitVec.add_assoc _ _ _
  · exact congrArg (· + 2#16) (hstay h)

end

/-! ## Skips on an immediate (R75, R76) -/

theorem decodeWord_seImm (x : RegIdx) (kk : Byte) :
    decodeWord (BitVec.ofNat 16 (0x3000 + 256 * x.val + kk.toNat)) = .ok (.seImm x kk) :=
  wordXKK_eq_ofNat 3#4 x kk ▸ decodeWord_encode (.seImm x kk)

theorem decodeWord_sneImm (x : RegIdx) (kk : Byte) :
    decodeWord (BitVec.ofNat 16 (0x4000 + 256 * x.val + kk.toNat)) = .ok (.sneImm x kk) :=
  wordXKK_eq_ofNat 4#4 x kk ▸ decodeWord_encode (.sneImm x kk)

theorem exec_seImm (x : RegIdx) (kk : Byte) (s : State) :
    exec (.seImm x kk) s = .next (skipIf (decide (s.reg x = kk)) s) := rfl

theorem exec_sneImm (x : RegIdx) (kk : Byte) (s : State) :
    exec (.sneImm x kk) s = .next (skipIf (decide (s.reg x ≠ kk)) s) := rfl

/-- Settles O11: bytes are equal exactly when their numbers are. -/
theorem skipIfEqualImmediate : Obligations.SkipIfEqualImmediate := by
  intro x kk
  exact skipRule_of_exec (exec_seImm x kk) (fun _ => decide_eq_true_iff.trans BitVec.toNat_inj.symm)
    (decodeWord_seImm x kk) rfl (fun _ _ => Iff.rfl)

/-- Settles O12: the condition of O11 negated. -/
theorem skipIfNotEqualImmediate : Obligations.SkipIfNotEqualImmediate := by
  intro x kk
  exact skipRule_of_exec (exec_sneImm x kk) (fun _ => decide_eq_true_iff.trans BitVec.toNat_inj.not.symm)
    (decodeWord_sneImm x kk) rfl (fun _ _ => Iff.rfl)

/-! ## Skips on a register (R77, R78) -/

theorem decodeWord_seReg (x y : RegIdx) :
    decodeWord (BitVec.ofNat 16 (0x5000 + 256 * x.val + 16 * y.val)) = .ok (.seReg x y) :=
  wordXYN_eq_ofNat 5#4 x y 0#4 ▸ decodeWord_encode (.seReg x y)

theorem decodeWord_sneReg (x y : RegIdx) :
    decodeWord (BitVec.ofNat 16 (0x9000 + 256 * x.val + 16 * y.val)) = .ok (.sneReg x y) :=
  wordXYN_eq_ofNat 9#4 x y 0#4 ▸ decodeWord_encode (.sneReg x y)

theorem exec_seReg (x y : RegIdx) (s : State) :
    exec (.seReg x y) s = .next (skipIf (decide (s.reg x = s.reg y)) s) := rfl

theorem exec_sneReg (x y : RegIdx) (s : State) :
    exec (.sneReg x y) s = .next (skipIf (decide (s.reg x ≠ s.reg y)) s) := rfl

/-- In the families 5 and 9 only the last nibble 0 has a row (R92, decision D14). -/
theorem isUnknown_wordXYN {f : BitVec 4} (hf : f = 5#4 ∨ f = 9#4) (x y : RegIdx) {n : BitVec 4} (hn : n ≠ 0#4) :
    isUnknown (wordXYN f x y n) = true := by
  obtain rfl | rfl := hf
  · simp [isUnknown, decodeWord, hn]
  · simp [isUnknown, decodeWord, hn]

theorem isUnknown_ofNat_of_lastNibble {f : BitVec 4} (hf : f = 5#4 ∨ f = 9#4) (x y : RegIdx) {n : Nat}
    (hpos : 1 ≤ n) (hle : n ≤ 15) :
    isUnknown (BitVec.ofNat 16 (4096 * f.toNat + 256 * x.val + 16 * y.val + n)) = true := by
  have hn : (BitVec.ofNat 4 n).toNat = n := (BitVec.toNat_ofNat n 4).trans (Nat.mod_eq_of_lt (by omega))
  have hne : BitVec.ofNat 4 n ≠ 0#4 := ne_of_apply_ne BitVec.toNat (by rw [hn]; exact Nat.ne_of_gt hpos)
  have hword := wordXYN_eq_ofNat f x y (BitVec.ofNat 4 n)
  rw [hn] at hword
  rw [hword]
  exact isUnknown_wordXYN hf x y hne

/-- Settles O13: the skip as in O11, and the other words of family 5. -/
theorem skipIfEqualRegister : Obligations.SkipIfEqualRegister := by
  refine ⟨fun x y => ?_, fun x y n => isUnknown_ofNat_of_lastNibble (.inl rfl) x y⟩
  exact skipRule_of_exec (exec_seReg x y) (fun _ => decide_eq_true_iff.trans BitVec.toNat_inj.symm)
    (decodeWord_seReg x y) rfl (fun _ _ => Iff.rfl)

/-- Settles O14: the skip as in O12, and the other words of family 9. -/
theorem skipIfNotEqualRegister : Obligations.SkipIfNotEqualRegister := by
  refine ⟨fun x y => ?_, fun x y n => isUnknown_ofNat_of_lastNibble (.inr rfl) x y⟩
  exact skipRule_of_exec (exec_sneReg x y) (fun _ => decide_eq_true_iff.trans BitVec.toNat_inj.not.symm)
    (decodeWord_sneReg x y) rfl (fun _ _ => Iff.rfl)

end Sys2Proof.Machine
end

section
/-! Register-immediate instructions (44_immediate.md), from the rule of an instruction whose whole effect is one
register write. -/

namespace Sys2Proof.Machine

/-! ## An instruction that writes one register and no flag (R64) -/

theorem agreeOutside_setReg (s : State) (x : RegIdx) (b : Byte) : AgreeOutside [.V] s (s.setReg x b) := by
  refine (AgreeOutside.refl s).cons fun f hne hsame => ?_
  cases f
  case V => exact absurd rfl hne
  all_goals exact hsame

/-- `post s b` is what the rule asks of the byte `b` that ends in the register; it does not look at the opcode
register, which the Step writes first. -/
theorem advancingRule_of_setReg {i : Instr} {w : Nat} {x : RegIdx} {value : State → Byte}
    (post : State → Byte → Prop) (hexec : ∀ s, exec i s = .next (s.setReg x (value s)))
    (hvalue : ∀ s, post s (value s)) (hpost : ∀ s v b, post (s.setOpcode v) b → post s b)
    (hd : decodeWord (BitVec.ofNat 16 w) = .ok i) (hi : suppressesAdvance i = false) :
    AdvancingRule i w [.V] fun s t => post s (t.reg x) ∧ ∀ r, r ≠ x → t.reg r = s.reg r := by
  refine advancingRule_of_exec hd hi (by decide) (by decide) (by decide) ?_ fun s => ?_
  · exact fun s t v _ ⟨hreg, hothers⟩ => ⟨hpost s v (t.reg x) hreg, hothers⟩
  · have hreg : post s ((s.setReg x (value s)).reg x) := (s.reg_setReg_same x _).symm ▸ hvalue s
    exact ⟨_, hexec s, ⟨hreg, fun _ hne => s.reg_setReg_ne _ hne⟩, agreeOutside_setReg s x _⟩

/-! ## Load and Add Immediate (R80, R81) -/

theorem decodeWord_ldImm (x : RegIdx) (kk : Byte) :
    decodeWord (BitVec.ofNat 16 (0x6000 + 256 * x.val + kk.toNat)) = .ok (.ldImm x kk) :=
  wordXKK_eq_ofNat 6#4 x kk ▸ decodeWord_encode (.ldImm x kk)

theorem decodeWord_addImm (x : RegIdx) (kk : Byte) :
    decodeWord (BitVec.ofNat 16 (0x7000 + 256 * x.val + kk.toNat)) = .ok (.addImm x kk) :=
  wordXKK_eq_ofNat 7#4 x kk ▸ decodeWord_encode (.addImm x kk)

theorem exec_ldImm (x : RegIdx) (kk : Byte) (s : State) : exec (.ldImm x kk) s = .next (s.setReg x kk) := rfl

theorem exec_addImm (x : RegIdx) (kk : Byte) (s : State) :
    exec (.addImm x kk) s = .next (s.setReg x (s.reg x + kk)) := rfl

/-- Settles O15: the register write is the whole effect. -/
theorem loadImmediate : Obligations.LoadImmediate := by
  intro x kk
  exact advancingRule_of_setReg (fun _ b => b.toNat = kk.toNat) (exec_ldImm x kk) (fun _ => rfl)
    (fun _ _ _ hb => hb) (decodeWord_ldImm x kk) rfl

/-- Settles O16: as O15, and addition of bytes is addition modulo 256. -/
theorem addImmediateWrapsWithoutFlag : Obligations.AddImmediateWrapsWithoutFlag := by
  intro x kk
  exact advancingRule_of_setReg (fun s b => b.toNat = ((s.reg x).toNat + kk.toNat) % 256) (exec_addImm x kk)
    (fun s => BitVec.toNat_add (s.reg x) kk) (fun _ _ _ hb => hb) (decodeWord_addImm x kk) rfl

end Sys2Proof.Machine
end

section
/-! Register-register instructions (45_alu.md): moves and logic from the rule of one register write, and the four that
write VF last (R82) from the rule of the result-and-flag write. -/

namespace Sys2Proof.Machine

/-- The words of the family: `8xyn` (R46). -/
theorem decodeWord_of_encode_eq_alu {i : Instr} {x y : RegIdx} {n : BitVec 4} (h : encode i = wordXYN 8#4 x y n) :
    decodeWord (BitVec.ofNat 16 (0x8000 + n.toNat + 256 * x.val + 16 * y.val)) = .ok i := by
  have hsum : 0x8000 + n.toNat + 256 * x.val + 16 * y.val = 0x8000 + 256 * x.val + 16 * y.val + n.toNat := by omega
  have hword : BitVec.ofNat 16 (0x8000 + 256 * x.val + 16 * y.val + n.toNat) = encode i :=
    (wordXYN_eq_ofNat 8#4 x y n).trans h.symm
  rw [hsum, hword, decodeWord_encode]

/-! ## Load and logic (R83 to R86) -/

theorem exec_ldReg (x y : RegIdx) (s : State) : exec (.ldReg x y) s = .next (s.setReg x (s.reg y)) := rfl

theorem exec_orReg (x y : RegIdx) (s : State) :
    exec (.orReg x y) s = .next (s.setReg x (s.reg x ||| s.reg y)) := rfl

theorem exec_andReg (x y : RegIdx) (s : State) :
    exec (.andReg x y) s = .next (s.setReg x (s.reg x &&& s.reg y)) := rfl

theorem exec_xorReg (x y : RegIdx) (s : State) :
    exec (.xorReg x y) s = .next (s.setReg x (s.reg x ^^^ s.reg y)) := rfl

/-- Settles O17: the register write is the whole effect. -/
theorem loadRegister : Obligations.LoadRegister := by
  intro x y
  exact advancingRule_of_setReg (fun s b => b.toNat = (s.reg y).toNat) (exec_ldReg x y) (fun _ => rfl)
    (fun _ _ _ hb => hb) (decodeWord_of_encode_eq_alu (n := 0#4) rfl) rfl

/-- The rule of an operation `op` that is the Boolean operation `bit` on each bit of the operands. -/
theorem advancingRule_of_bitwise {i : Instr} {w : Nat} {x y : RegIdx} (op : Byte → Byte → Byte)
    (bit : Bool → Bool → Bool) (hexec : ∀ s, exec i s = .next (s.setReg x (op (s.reg x) (s.reg y))))
    (hbit : ∀ a b j, (op a b).getLsbD j = bit (a.getLsbD j) (b.getLsbD j))
    (hd : decodeWord (BitVec.ofNat 16 w) = .ok i) (hi : suppressesAdvance i = false) :
    AdvancingRule i w [.V] fun s t =>
      (∀ j, (t.reg x).getLsbD j = bit ((s.reg x).getLsbD j) ((s.reg y).getLsbD j)) ∧ ∀ r, r ≠ x → t.reg r = s.reg r :=
  advancingRule_of_setReg (fun s b => ∀ j, b.getLsbD j = bit ((s.reg x).getLsbD j) ((s.reg y).getLsbD j))
    hexec (fun s => hbit (s.reg x) (s.reg y)) (fun _ _ _ hb => hb) hd hi

/-- Settles O18: a bit of `|||` is the OR of the bits. -/
theorem orBitwise : Obligations.OrBitwise := by
  intro x y
  exact advancingRule_of_bitwise (· ||| ·) or (exec_orReg x y) (fun _ _ _ => BitVec.getLsbD_or)
    (decodeWord_of_encode_eq_alu (n := 1#4) rfl) rfl

/-- Settles O19: a bit of `&&&` is the AND of the bits. -/
theorem andBitwise : Obligations.AndBitwise := by
  intro x y
  exact advancingRule_of_bitwise (· &&& ·) and (exec_andReg x y) (fun _ _ _ => BitVec.getLsbD_and)
    (decodeWord_of_encode_eq_alu (n := 2#4) rfl) rfl

/-- Settles O20: a bit of `^^^` is the exclusive OR of the bits. -/
theorem xorBitwise : Obligations.XorBitwise := by
  intro x y
  exact advancingRule_of_bitwise (· ^^^ ·) xor (exec_xorReg x y) (fun _ _ _ => BitVec.getLsbD_xor)
    (decodeWord_of_encode_eq_alu (n := 3#4) rfl) rfl

/-! ## The result, then the flag (R82) -/

theorem agreeOutside_setResultAndFlag (s : State) (x : RegIdx) (v f : Byte) :
    AgreeOutside [.V] s (s.setResultAndFlag x v f) :=
  ((agreeOutside_setReg s x v).trans (agreeOutside_setReg _ flagReg f)).mono (by decide)

theorem regAndFlag_setResultAndFlag (s : State) (x : RegIdx) (v f : Byte) :
    RegAndFlag x s (s.setResultAndFlag x v f) v.toNat f.toNat := by
  refine ⟨congrArg BitVec.toNat ?_, fun hx => congrArg BitVec.toNat ?_, fun r hne hflag => ?_⟩
  · exact (s.reg_setResultAndFlag x flagReg v f).trans (if_pos rfl)
  · exact (s.reg_setResultAndFlag x x v f).trans ((if_neg hx).trans (if_pos rfl))
  · exact (s.reg_setResultAndFlag x r v f).trans ((if_neg hflag).trans (if_neg hne))

/-- Result and flag are functions of the operands as they were before any write, with values `r` and `g`, so `x = 15`
and `y = 15` need no case of their own. -/
theorem advancingRule_of_setResultAndFlag {i : Instr} {w : Nat} {x y : RegIdx} (result flag : Byte → Byte → Byte)
    {r g : Byte → Byte → Nat} (hexec : ∀ s, exec i s =
      .next (s.setResultAndFlag x (result (s.reg x) (s.reg y)) (flag (s.reg x) (s.reg y))))
    (hresult : ∀ a b, (result a b).toNat = r a b) (hflag : ∀ a b, (flag a b).toNat = g a b)
    (hd : decodeWord (BitVec.ofNat 16 w) = .ok i) (hi : suppressesAdvance i = false) :
    AdvancingRule i w [.V] fun s t => RegAndFlag x s t (r (s.reg x) (s.reg y)) (g (s.reg x) (s.reg y)) := by
  refine advancingRule_of_exec hd hi (by decide) (by decide) (by decide) (fun _ _ _ _ heff => heff) fun s => ?_
  have heff := regAndFlag_setResultAndFlag s x (result (s.reg x) (s.reg y)) (flag (s.reg x) (s.reg y))
  rw [hresult, hflag] at heff
  exact ⟨_, hexec s, heff, agreeOutside_setResultAndFlag s x _ _⟩

/-! ## Arithmetic and shift (R87 to R90) -/

theorem exec_addReg (x y : RegIdx) (s : State) : exec (.addReg x y) s =
    .next (s.setResultAndFlag x (addResult (s.reg x) (s.reg y)) (carryFlag (s.reg x) (s.reg y))) := rfl

theorem exec_sub (x y : RegIdx) (s : State) : exec (.sub x y) s =
    .next (s.setResultAndFlag x (subResult (s.reg x) (s.reg y)) (noBorrowFlag (s.reg x) (s.reg y))) := rfl

theorem exec_shr (x y : RegIdx) (s : State) : exec (.shr x y) s =
    .next (s.setResultAndFlag x (shrResult (s.reg x)) (shrFlag (s.reg x))) := rfl

theorem exec_subn (x y : RegIdx) (s : State) : exec (.subn x y) s =
    .next (s.setResultAndFlag x (subResult (s.reg y) (s.reg x)) (noBorrowFlag (s.reg y) (s.reg x))) := rfl

/-- Settles O21: the sum's low byte and its bit 8 as numbers. -/
theorem addRegistersSetsCarry : Obligations.AddRegistersSetsCarry := by
  intro x y
  exact advancingRule_of_setResultAndFlag addResult carryFlag (exec_addReg x y) addResult_toNat carryFlag_toNat
    (decodeWord_of_encode_eq_alu (n := 4#4) rfl) rfl

/-- Settles O22: the difference and NOT-borrow as numbers. -/
theorem subtractSetsNoBorrow : Obligations.SubtractSetsNoBorrow := by
  intro x y
  exact advancingRule_of_setResultAndFlag subResult noBorrowFlag (exec_sub x y) subResult_toNat noBorrowFlag_toNat
    (decodeWord_of_encode_eq_alu (n := 5#4) rfl) rfl

/-- Settles O23: half and parity as numbers; the second operand takes no part. -/
theorem shiftRightSetsLsb : Obligations.ShiftRightSetsLsb := by
  intro x y
  exact advancingRule_of_setResultAndFlag (y := y) (fun a _ => shrResult a) (fun a _ => shrFlag a) (exec_shr x y)
    (fun a _ => shrResult_toNat a) (fun a _ => shrFlag_toNat a) (decodeWord_of_encode_eq_alu (n := 6#4) rfl) rfl

/-- Settles O24: O22 with the operands the other way round. -/
theorem subtractNegatedSetsNoBorrow : Obligations.SubtractNegatedSetsNoBorrow := by
  intro x y
  exact advancingRule_of_setResultAndFlag (fun a b => subResult b a) (fun a b => noBorrowFlag b a) (exec_subn x y)
    (fun a b => subResult_toNat b a) (fun a b => noBorrowFlag_toNat b a)
    (decodeWord_of_encode_eq_alu (n := 7#4) rfl) rfl

end Sys2Proof.Machine
end

section
/-! Opcodes with no defined operation (46_unimplemented.md): the Unknown words family by family (R92), and the raise of
the patterns named in R91. -/

namespace Sys2Proof

/-! ## The Unknown words of each family (R49, R92) -/

/-- A word is Unknown unless it decodes to one of the 18 instructions (R49). -/
theorem isUnknown_iff (w : Word) : isUnknown w = true ↔ ∀ i, decodeWord w = .ok i → i.hasOperation = false := by
  cases hd : decodeWord w <;> simp [isUnknown, hd]

theorem isUnknown_of_family_zero {w : Word} (hf : fieldF w = 0x0#4) :
    isUnknown w = true ↔ w ≠ 0x00E0#16 ∧ w ≠ 0x00EE#16 := by
  rw [isUnknown, decodeWord, hf]
  by_cases hcls : w = 0x00E0#16
  · simp [hcls, Instr.hasOperation]
  · by_cases hret : w = 0x00EE#16 <;> simp [hcls, hret, Instr.hasOperation]

theorem isUnknown_of_family_five_or_nine {w : Word} (hf : fieldF w = 0x5#4 ∨ fieldF w = 0x9#4) :
    isUnknown w = true ↔ fieldN w ≠ 0x0#4 := by
  obtain hf | hf := hf
  all_goals
    rw [isUnknown, decodeWord, hf]
    by_cases hn : fieldN w = 0x0#4 <;> simp [hn, Instr.hasOperation]

/-- The nibbles 0 to 7 spell the register-register operations (R50). -/
theorem isUnknown_of_family_eight {w : Word} (hf : fieldF w = 0x8#4) :
    isUnknown w = true ↔ 8 ≤ (fieldN w).toNat := by
  simp only [isUnknown, decodeWord, hf]
  split
  next i hd =>
    split at hd
    all_goals cases hd
    all_goals simp [*, Instr.hasOperation]
  next e hd =>
    split at hd
    all_goals cases hd
    simp only [imp_false, true_iff] at *
    bv_omega

/-- The families without a fixed nibble beside the selector. -/
theorem isUnknown_eq_false_of_family {w : Word} (hf : fieldF w = 0x1#4 ∨ fieldF w = 0x2#4 ∨ fieldF w = 0x3#4 ∨
    fieldF w = 0x4#4 ∨ fieldF w = 0x6#4 ∨ fieldF w = 0x7#4) : isUnknown w = false := by
  obtain hf | hf | hf | hf | hf | hf := hf
  all_goals
    rw [isUnknown, decodeWord, hf]
    rfl

/-- The 18 instructions lie in the families 0 to 9 (R50). -/
theorem family_lt_ten_of_hasOperation {i : Instr} (hi : i.hasOperation = true) : (fieldF (encode i)).toNat < 10 := by
  cases i
  case cls | ret => decide
  case undefAnnn | undefDxyn | undefEx9E | undefExA1 | undefFx07 | undefFx0A | undefFx15 | undefFx18 | undefFx33
    | undefFx55 | undefFx65 => cases hi
  all_goals simp [encode]

theorem isUnknown_of_ten_le_family {w : Word} (hf : 10 ≤ (fieldF w).toNat) : isUnknown w = true := by
  refine (isUnknown_iff w).mpr fun i hd => ?_
  rw [← encode_of_decodeWord hd] at hf
  exact eq_false_of_ne_true fun hi => absurd (family_lt_ten_of_hasOperation hi) (by omega)

/-- Settles O4: by the family, each as its lemma above says, the fields read as numbers. -/
theorem unknownWordsByFamily : Obligations.UnknownWordsByFamily := by
  intro w
  have hfam := fieldF_toNat w
  have hlast := fieldN_toNat w
  have hcases : fieldF w = 0x0#4 ∨ (fieldF w = 0x5#4 ∨ fieldF w = 0x9#4) ∨ fieldF w = 0x8#4 ∨
      (fieldF w = 0x1#4 ∨ fieldF w = 0x2#4 ∨ fieldF w = 0x3#4 ∨ fieldF w = 0x4#4 ∨ fieldF w = 0x6#4 ∨
        fieldF w = 0x7#4) ∨ 10 ≤ (fieldF w).toNat := by bv_omega
  obtain hf | hf | hf | hf | hf := hcases
  · rw [isUnknown_of_family_zero hf]
    bv_omega
  · rw [isUnknown_of_family_five_or_nine hf]
    bv_omega
  · rw [isUnknown_of_family_eight hf]
    bv_omega
  · rw [isUnknown_eq_false_of_family hf]
    simp only [Bool.false_eq_true, false_iff]
    bv_omega
  · rw [isUnknown_of_ten_le_family hf]
    simp only [true_iff]
    omega

end Sys2Proof

namespace Sys2Proof.Machine

/-! ## The named patterns (R91) -/

/-- Settles O25: none of the patterns has an operation, and `Exec` of such an instruction is the raise. -/
theorem namedPatternsRaiseUnknown : Obligations.NamedPatternsRaiseUnknown := by
  intro nnn x y n i hi s
  have hop : i.hasOperation = false := by
    simp only [List.mem_cons, List.not_mem_nil, or_false] at hi
    rcases hi with rfl | rfl | rfl | rfl | rfl | rfl | rfl | rfl | rfl | rfl | rfl
    all_goals rfl
  exact ⟨_, exec_of_not_hasOperation hop s, rfl, (AgreeOutside.refl s).takeFault .unknownOpcode s.opcode⟩

end Sys2Proof.Machine
end

section
/-! Faults are precise (60_exceptions.md R107, R108): the four raises of a Step, and what each leaves behind. -/

namespace Sys2Proof.Machine

theorem State.fetchedWord_eq_none {s : State} (h : s.fetchedWord = none) : 0x0FFE < s.pc.toNat := by
  rw [State.fetchedWord_eq] at h
  split at h
  next => cases h
  next hpc => simp only [Config.memSize] at hpc; omega

theorem isUnknown_of_decodeWord_error {w : Word} {e : DecodeError} (hd : decodeWord w = .error e) :
    isUnknown w = true :=
  (isUnknown_iff w).mpr fun _ hi => nomatch hd.symm.trans hi

theorem isUnknown_of_not_hasOperation {w : Word} {i : Instr} (hd : decodeWord w = .ok i)
    (hi : i.hasOperation = false) : isUnknown w = true :=
  (isUnknown_iff w).mpr fun _ hj => Except.ok.inj (hd.symm.trans hj) ▸ hi

/-- `StepRaise s t`: `t` is a state that a Step which raises may leave from `s`, one constructor per cause of R100. -/
inductive StepRaise (s : State) : State → Prop where
  | fetchOutOfBounds (hpc : 0x0FFE < s.pc.toNat) : StepRaise s (s.takeFault .fetchOutOfBounds s.pc)
  | unknownOpcode {w : Word} (hw : isUnknown w = true) :
      StepRaise s ((s.setOpcode w).takeFault .unknownOpcode w)
  | stackOverflow {w : Word} (hw : w.toNat / 4096 = 2) (hs : s.sp.val = 16) :
      StepRaise s ((s.setOpcode w).takeFault .stackOverflow s.pc)
  | stackUnderflow (hs : s.sp.val = 0) : StepRaise s ((s.setOpcode 0x00EE).takeFault .stackUnderflow s.pc)

/-- The raises of `Exec`, told by the word executed. -/
theorem ExecEffect.stepRaise {s u : State} {w : Word} {i : Instr} (h : ExecEffect (s.setOpcode w) i u)
    (hd : decodeWord w = .ok i) (hs : s.fault = none) (hu : u.fault ≠ none) : StepRaise s u := by
  cases h
  case overflow nnn hsp =>
    have := nnn.isLt
    have hword : w.toNat = 4096 * 2 + nnn.toNat := by rw [← encode_of_decodeWord hd, encode_call_toNat]
    exact .stackOverflow (by omega) hsp
  case underflow hsp =>
    obtain rfl : (0x00EE : Word) = w := encode_of_decodeWord hd
    exact .stackUnderflow hsp
  case undefined hi => exact .unknownOpcode (isUnknown_of_not_hasOperation hd hi)
  all_goals exact absurd hs hu

/-- A cycle that ends with a fault latched is one of the four raises. -/
theorem stepCycle_raise {s t : State} (h : stepCycle s = .next t) (hs : s.fault = none) (ht : t.fault ≠ none) :
    StepRaise s t := by
  obtain ⟨hw, rfl⟩ | ⟨w, e, -, hd, rfl⟩ | ⟨w, i, u, -, hd, hu, rfl⟩ := stepCycle_cases h
  · exact .fetchOutOfBounds (State.fetchedWord_eq_none hw)
  · exact .unknownOpcode (isUnknown_of_decodeWord_error hd)
  · rw [advanceAfter_fault] at ht
    rw [advanceAfter_of_fault_or_suppressed (.inl ht)]
    exact hu.stepRaise hd hs ht

namespace StepRaise

variable {s t : State}

/-- A raise writes the latch and, once a word is fetched, the opcode register (R108). -/
theorem agreeOutside (h : StepRaise s t) : AgreeOutside [.fault, .opcode] s t := by
  cases h
  case fetchOutOfBounds => exact ((AgreeOutside.refl s).takeFault _ _).mono (by simp)
  all_goals exact ((AgreeOutside.refl s).setOpcode _).takeFault _ _

/-- Each cause with its guard and its info (R101 to R104). -/
theorem cause_info {r : FaultRecord} (h : StepRaise s t) (hr : t.fault = some r) :
    (r.cause = .fetchOutOfBounds → t.opcode = s.opcode ∧ r.info = s.pc ∧ 0x0FFE < s.pc.toNat) ∧
    (r.cause = .unknownOpcode → r.info = t.opcode ∧ isUnknown t.opcode = true) ∧
    (r.cause = .stackOverflow → r.info = s.pc ∧ t.opcode.toNat / 4096 = 2 ∧ s.sp.val = 16) ∧
    (r.cause = .stackUnderflow → r.info = s.pc ∧ t.opcode = 0x00EE ∧ s.sp.val = 0) := by
  cases h
  all_goals cases hr
  case fetchOutOfBounds hpc => exact ⟨fun _ => ⟨rfl, rfl, hpc⟩, nofun, nofun, nofun⟩
  case unknownOpcode w hw => exact ⟨nofun, fun _ => ⟨rfl, hw⟩, nofun, nofun⟩
  case stackOverflow w hw hs => exact ⟨nofun, nofun, fun _ => ⟨rfl, hw, hs⟩, nofun⟩
  case stackUnderflow hs => exact ⟨nofun, nofun, nofun, fun _ => ⟨rfl, rfl, hs⟩⟩

end StepRaise

/-- Settles O33: an enabled step is a cycle from the state with the schedule popped and the phase running. -/
theorem faultsArePrecise : Obligations.FaultsArePrecise := by
  intro s t r hen hstep hr
  rw [step_of_enabled hen] at hstep
  obtain ⟨-, hf, -⟩ := hen
  have hraise := stepCycle_raise hstep hf (by simp [hr])
  have hstart : AgreeOutside [.phase, .schedule] s (s.popSchedule.setPhase .running) :=
    ((AgreeOutside.refl s).setSchedule _).setPhase _
  exact ⟨(hstart.trans hraise.agreeOutside).mono (by simp), hraise.cause_info hr⟩

end Sys2Proof.Machine
end

section
/-! The other agents (60_exceptions.md R112, R116): what Tick and SetKey write, and that both commute with `Exec` and
with a Step. -/

namespace Sys2Proof.Machine

/-! ## Tick and SetKey by themselves -/

theorem countDown_toNat (t : Byte) : (countDown t).toNat = t.toNat - 1 := by
  unfold countDown
  split
  next h => rw [h]; rfl
  next h => bv_omega

namespace AgreeOutside

variable {fs : List Field} {s t : State}

theorem setTimers (h : AgreeOutside fs s t) (d e : Byte) : AgreeOutside (.dt :: .st :: fs) s (t.setTimers d e) := by
  intro f hf
  have hsame := h f fun hmem => hf (by simp [hmem])
  cases f
  case dt | st => simp at hf
  all_goals exact hsame

theorem setKey (h : AgreeOutside fs s t) (k : Fin 16) (b : Bool) : AgreeOutside (.key :: fs) s (t.setKey k b) := by
  refine h.cons fun f hne hsame => ?_
  cases f
  case key => exact absurd rfl hne
  all_goals exact hsame

end AgreeOutside

/-- Settles O37: each timer by the law of the count down. -/
theorem tickCountsDown : Obligations.TickCountsDown := by
  intro s
  exact ⟨tick s, rfl, countDown_toNat s.dt, countDown_toNat s.st, (AgreeOutside.refl s).setTimers _ _⟩

/-! ## What Tick and SetKey write takes no part in a Step (R107) -/

/-- The elements Tick and SetKey write, replaced: the timers and the keys. -/
def State.withAgents (s : State) (d e : Byte) (k : Vector Bool 16) : State := { s with dt := d, st := e, key := k }

/-- A state with the timers and keys of `s` ticks to what the Tick of `s` writes. -/
theorem tick_eq_withAgents {s t : State} (hdt : t.dt = s.dt) (hst : t.st = s.st) (hkey : t.key = s.key) :
    tick t = t.withAgents (countDown s.dt) (countDown s.st) s.key := by
  rw [← hdt, ← hst, ← hkey]; rfl

theorem State.setKey_eq_withAgents {s t : State} (hdt : t.dt = s.dt) (hst : t.st = s.st) (hkey : t.key = s.key)
    (k : Fin 16) (b : Bool) : t.setKey k b = t.withAgents s.dt s.st (s.key.set k.val b) := by
  rw [← hdt, ← hst, ← hkey]; rfl

section

variable {s t : State} (d e : Byte) (k : Vector Bool 16)

theorem exec_withAgents {i : Instr} (h : exec i s = .next t) :
    exec i (s.withAgents d e k) = .next (t.withAgents d e k) := by
  have hkeep : t.withUnread ⟨s.mem, s.I, d, e, k⟩ = t.withAgents d e k := by rw [(exec_effect h).frame]; rfl
  rw [← hkeep]
  exact exec_withUnread ⟨s.mem, s.I, d, e, k⟩ h

theorem advanceAfter_withAgents (i : Instr) (s : State) :
    advanceAfter i (s.withAgents d e k) = (advanceAfter i s).withAgents d e k := by
  cases hf : s.fault with
  | some r => rw [advanceAfter_of_some hf, advanceAfter_of_some (by exact hf)]
  | none =>
    rw [advanceAfter_of_none hf, advanceAfter_of_none (by exact hf)]
    cases suppressesAdvance i <;> rfl

theorem executeWord_withAgents {w : Word} (h : executeWord w s = .next t) :
    executeWord w (s.withAgents d e k) = .next (t.withAgents d e k) := by
  cases hd : decodeWord w with
  | error err =>
    rw [executeWord_of_error hd] at h ⊢
    cases h
    rfl
  | ok i =>
    obtain ⟨u, hu⟩ := exec_completes i (s.setOpcode w)
    rw [executeWord_of_decode hd, executeInstr_of_exec hu] at h
    cases h
    rw [executeWord_of_decode hd, ← advanceAfter_withAgents]
    exact executeInstr_of_exec (exec_withAgents d e k hu)

/-- The fetch reads memory and `pc` only. -/
theorem State.fetchedWord_withAgents (s : State) : (s.withAgents d e k).fetchedWord = s.fetchedWord := rfl

theorem stepCycle_withAgents (h : stepCycle s = .next t) :
    stepCycle (s.withAgents d e k) = .next (t.withAgents d e k) := by
  unfold stepCycle at h ⊢
  rw [State.fetchedWord_withAgents]
  cases hw : s.fetchedWord with
  | none => rw [hw] at h; cases h; rfl
  | some w => rw [hw] at h; exact executeWord_withAgents d e k h

theorem engineStep_withAgents (h : engineStep s = .next t) :
    engineStep (s.withAgents d e k) = .next (t.withAgents d e k) := by
  obtain ⟨hf, hp, hcyc⟩ := engineStep_next h
  have hf' : (s.withAgents d e k).fault = none := hf
  have hp' : (s.withAgents d e k).phase.allowsStep = true := hp
  rw [engineStep, hf', hp']
  exact stepCycle_withAgents d e k hcyc

end

/-- Settles O38: the frame of the key write; and a key is one of the elements that take no part in `Exec`. -/
theorem setKeyWritesOneKeyUnread : Obligations.SetKeyWritesOneKeyUnread := by
  refine ⟨fun k b s => ⟨s.setKey k b, rfl, ?_, fun j hj => ?_, (AgreeOutside.refl s).setKey k b⟩,
    fun i s t k b h => ?_⟩
  · rw [State.keyDown_setKey, if_pos rfl]
  · rw [State.keyDown_setKey, if_neg hj]
  · have hframe := (exec_effect h).agreeOutside
    rw [State.setKey_eq_withAgents (hframe .dt (by simp)) (hframe .st (by simp)) (hframe .key (by simp))]
    exact exec_withAgents _ _ _ h

/-- Settles O39: a Step keeps the timers and the keys, so either action writes the same before it and after it. -/
theorem tickAndSetKeyCommuteWithStep : Obligations.TickAndSetKeyCommuteWithStep := by
  intro s t h
  have hdt : t.dt = s.dt := by rw [engineStep_frame h]
  have hst : t.st = s.st := by rw [engineStep_frame h]
  have hkey : t.key = s.key := by rw [engineStep_frame h]
  refine ⟨⟨_, _, rfl, engineStep_withAgents _ _ _ h, ?_⟩, fun k b => ⟨_, _, rfl, engineStep_withAgents _ _ _ h, ?_⟩⟩
  · exact congrArg Host.Outcome.next (tick_eq_withAgents hdt hst hkey)
  · exact congrArg Host.Outcome.next (State.setKey_eq_withAgents hdt hst hkey k b)

end Sys2Proof.Machine
end

section
/-! Every state a run reaches meets the invariant of R26; hence no sound (60_exceptions.md R115) and no lit pixel
(10_state.md R19). -/

namespace Sys2Proof.Machine

theorem Reachable.runInvariant {s : State} (h : Reachable s) : RunInvariant s := by
  induction h with
  | start l => exact (resetMeetsRunInvariant l).1
  | next _ hstep ih => exact stepKeepsRunInvariant _ _ ih hstep

/-- The cells are row-major (R19). -/
theorem State.pixel_eq_cell (s : State) (cx : Fin 64) (cy : Fin 32) :
    s.pixel cx cy = s.cell ⟨cy.val * 64 + cx.val, by omega⟩ := by
  have hcol : (cy.val * 64 + cx.val) % 64 = cx.val := by omega
  have hrow : (cy.val * 64 + cx.val) / 64 = cy.val := by omega
  simp [State.cell, hcol, hrow]

/-- Settles O51: by the invariant's clauses on the sound timer and the screen. -/
theorem noSoundNoPixelInAnyRun : Obligations.NoSoundNoPixelInAnyRun := by
  intro s h
  have hinv := h.runInvariant
  refine ⟨?_, fun cx cy => ?_⟩
  · simp [State.soundActive, hinv.soundZero]
  · rw [State.pixel_eq_cell]
    exact hinv.screenDark _

end Sys2Proof.Machine
end

section
/-! Reset (70_reset_and_hazards.md R125, R126): what the listless memory reads, every element at its reset value, and
the fresh machine's first Step. -/

namespace Sys2Proof.Machine

/-! ## The reset contents of memory (R32, R33) -/

theorem Memory.read_nil_font {k : Nat} (h : k < 80) : Memory.read [] (0x050 + k) = Config.font[k] := by
  have hin : Config.fontBase ≤ 0x050 + k ∧ 0x050 + k < Config.fontBase + Config.fontSize := by
    simp only [Config.fontBase, Config.fontSize]
    omega
  have hk : 0x050 + k - Config.fontBase = k := Nat.add_sub_cancel_left ..
  simp only [Memory.read, Memory.unlisted, Memory.unlistedWith, dif_pos hin, hk]

theorem Memory.read_nil_of_not_font {a : Nat} (h : a < 0x050 ∨ 0x09F < a) : Memory.read [] a = 0x00#8 := by
  have hout : ¬ (Config.fontBase ≤ a ∧ a < Config.fontBase + Config.fontSize) := by
    simp only [Config.fontBase, Config.fontSize]
    omega
  exact dif_neg hout

/-! ## Reset from any state (R125) -/

@[simp] theorem State.reg_resetAction (s : State) (x : RegIdx) : (resetAction s).reg x = 0x00#8 :=
  Vector.getElem_replicate ..

@[simp] theorem State.keyDown_resetAction (s : State) (k : Fin 16) : (resetAction s).keyDown k = false :=
  Vector.getElem_replicate ..

/-- Settles O40: registers, stack, keys and cells are constant vectors, and memory lists nothing. -/
theorem resetPutsEveryElement : Obligations.ResetPutsEveryElement := by
  intro s
  refine ⟨resetAction s, rfl, State.reg_resetAction s, rfl, rfl, fun k h => ?stack, rfl, rfl, rfl, rfl,
    State.keyDown_resetAction s, ?cells, rfl, rfl, fun a => Memory.read_nil_of_not_font,
    fun k h => Memory.read_nil_font h⟩
  case stack => exact Vector.getElem_replicate ..
  case cells => exact (runInvariant_reset s.schedule s.draws).screenDark

/-! ## The fresh machine (R126) -/

theorem ready_reset : Ready State.reset 0x0000#16 := by decide

theorem step_reset : step State.reset = .next ((State.reset.setPhase .running).takeFault .unknownOpcode 0x0000#16) :=
  (step_of_ready ready_reset).trans (executeWord_of_isUnknown (by decide) _)

/-- Settles O41: the reset contents of memory, and the raise on the zero word, which the opcode register holds
already. -/
theorem freshMachineFaultsOnZeroWord : Obligations.FreshMachineFaultsOnZeroWord :=
  ⟨fun _ h => Memory.read_nil_font h, fun _ => Memory.read_nil_of_not_font, _, step_reset, rfl,
    ((AgreeOutside.refl State.reset).setPhase _).takeFault _ _⟩

end Sys2Proof.Machine
end

section
/-! Load (70_reset_and_hazards.md R127 to R131): its three results, and the actions refused after it. -/

namespace Sys2Proof.Machine

/-! ## The frame of a Load -/

namespace AgreeOutside

variable {fs : List Field} {s t : State}

theorem setMem (h : AgreeOutside fs s t) (m : List Host.Cell) : AgreeOutside (.mem :: fs) s (t.setMem m) := by
  refine h.cons fun f hne hsame => ?_
  cases f
  case mem => exact absurd rfl hne
  all_goals exact hsame

theorem setDraws (h : AgreeOutside fs s t) (n : Nat) : AgreeOutside (.draws :: fs) s (t.setDraws n) := by
  refine h.cons fun f hne hsame => ?_
  cases f
  case draws => exact absurd rfl hne
  all_goals exact hsame

end AgreeOutside

/-! ## A run of bytes placed from 0x200 on -/

section PlacedRun

variable {m : List Host.Cell} {bytes : List Byte} (hm : Memory.wf m = true) (hfit : bytes.length ≤ 3584)
include hm hfit

theorem Memory.read_placed {k : Nat} (hk : k < bytes.length) :
    Memory.read (Memory.writeBytes m Config.programBase bytes) (0x200 + k) = bytes[k] := by
  rw [Memory.read_writeBytes (Nat.add_le_add_left hfit 0x200) hm,
    dif_pos ⟨Nat.le_add_right .., Nat.add_lt_add_left hk _⟩]
  simp only [Nat.add_sub_cancel_left]

theorem Memory.read_outside_placed {a : Nat} (ha : a < 0x200 ∨ 0x200 + bytes.length ≤ a) :
    Memory.read (Memory.writeBytes m Config.programBase bytes) a = Memory.read m a := by
  rw [Memory.read_writeBytes (Nat.add_le_add_left hfit 0x200) hm,
    dif_neg fun ⟨hge, hlt⟩ => ha.elim hge.not_gt hlt.not_ge]

end PlacedRun

/-! ## The three results of a Load (R127, R128, R130) -/

theorem act_load_of_fresh {s : State} (h : s.phase = .fresh) (src : ImageSource) :
    act (.load src) s = .next (loadImage src s) := by
  rw [act, load, h]

theorem loadImage_of_fits {img : List Byte} (h : img.length ≤ 3584) (s : State) :
    loadImage ⟨img, false⟩ s = (s.setMem (Memory.writeBytes s.mem Config.programBase img)).setPhase .loaded :=
  if_neg (Nat.not_lt.mpr h)

theorem loadImage_of_tooLarge {img : List Byte} (h : 3584 < img.length) (s : State) :
    loadImage ⟨img, false⟩ s =
      ((s.setMem (Memory.writeBytes s.mem Config.programBase (failedLoadBytes s.draws 0 (img.take 3584)))).setDraws
        (s.draws + 1)).setPhase (.failed .tooLarge) :=
  if_pos h

theorem loadImage_of_ioError (img : List Byte) (s : State) :
    loadImage ⟨img, true⟩ s =
      (s.setMem (Memory.writeBytes s.mem Config.programBase (img.take 3584))).setPhase (.failed .ioError) :=
  rfl

/-- Settles O42: the image fits, so it is the run placed. -/
theorem loadPlacesImage : Obligations.LoadPlacesImage := by
  intro s img hfresh hm hfit
  refine ⟨_, (act_load_of_fresh hfresh _).trans (congrArg _ (loadImage_of_fits hfit s)), rfl, fun k hk => ?_,
    fun a ha => ?_, (((AgreeOutside.refl s).setMem _).setPhase _).mono (by simp)⟩
  · exact Memory.read_placed hm hfit hk
  · exact Memory.read_outside_placed hm hfit ha

/-- Settles O43: the run placed is as long as the room there is, and each of its bytes is 0 or the image's. -/
theorem loadTooLargeFails : Obligations.LoadTooLargeFails := by
  intro s img hfresh hm hlarge
  have hlen : (failedLoadBytes s.draws 0 (img.take 3584)).length = 3584 := by
    rw [length_failedLoadBytes, List.length_take_of_le hlarge.le]
  refine ⟨_, (act_load_of_fresh hfresh _).trans (congrArg _ (loadImage_of_tooLarge hlarge s)), rfl, fun k hk => ?_,
    fun a ha => ?_, ((((AgreeOutside.refl s).setMem _).setDraws _).setPhase _).mono (by simp)⟩
  · have hread := Memory.read_placed hm hlen.le (hlen.symm ▸ hk)
    have hbyte := failedLoadBytes_getElem s.draws 0 (img.take 3584) k (hlen.symm ▸ hk)
    rw [List.getElem?_take_of_lt hk, ← hread] at hbyte
    exact hbyte
  · exact Memory.read_outside_placed hm hlen.le (by omega)

/-- Settles O44: the delivered bytes that fit are the run placed. -/
theorem loadIoErrorKeepsPrefix : Obligations.LoadIoErrorKeepsPrefix := by
  intro s img hfresh hm
  have hlen : (img.take 3584).length = min 3584 img.length := List.length_take
  refine ⟨_, (act_load_of_fresh hfresh _).trans (congrArg _ (loadImage_of_ioError img s)), rfl, fun k hk hroom => ?_,
    fun a ha => ?_, (((AgreeOutside.refl s).setMem _).setPhase _).mono (by simp)⟩
  · exact (Memory.read_placed hm (by omega) (by omega)).trans List.getElem_take
  · exact Memory.read_outside_placed hm (by omega) (by omega)

/-! ## Actions out of order (R131) -/

theorem load_of_not_fresh {s : State} (h : s.phase ≠ .fresh) (src : ImageSource) :
    load src s = .refused .loadNotFresh := by
  unfold load
  split
  next hfresh => exact absurd hfresh h
  all_goals rfl

theorem loadImage_phase_ne_fresh (src : ImageSource) (s : State) : (loadImage src s).phase ≠ .fresh := by
  unfold loadImage
  split
  · exact RunPhase.noConfusion
  · split <;> exact RunPhase.noConfusion

theorem engineStep_of_failed {s : State} {e : LoadError} (hp : s.phase = .failed e) (hf : s.fault = none) :
    engineStep s = .refused .stepAfterFailedLoad := by
  rw [engineStep, hf, hp]
  rfl

/-- Settles O45: by what each of the two actions does out of order, and the phase each leaves. -/
theorem outOfOrderActionsRefused : Obligations.OutOfOrderActionsRefused := by
  refine ⟨fun s src h => load_of_not_fresh h src, fun s src t h => ?_, fun s e => engineStep_of_failed,
    fun s t h => ?_⟩
  · obtain ⟨-, rfl⟩ := load_next h
    exact loadImage_phase_ne_fresh src s
  · rw [engineStep_frame h]

end Sys2Proof.Machine
end

section
/-! A jump to itself (70_reset_and_hazards.md R132 (a)). -/

namespace Sys2Proof.Machine

theorem addrOperand_truncate {p : Word} (h : p.toNat < 4096) : addrOperand (p.truncate 12) = p := by
  apply BitVec.eq_of_toNat_eq
  rw [addrOperand_toNat, BitVec.truncate_eq_setWidth, BitVec.toNat_setWidth, Nat.mod_eq_of_lt h]

theorem State.popSchedule_of_nil {s : State} (h : s.schedule = []) : s.popSchedule = s := by
  rw [State.popSchedule, h, List.tail_nil, ← h]
  rfl

/-- The jump writes back the `pc` it started from, so only the opcode register and the phase are written. -/
theorem Spinning.step_eq {s : State} (h : Spinning s) (hempty : s.schedule = []) :
    step s = .next ((s.setPhase .running).setOpcode (encode (.jp (s.pc.truncate 12)))) := by
  have ⟨_, hpc, _⟩ := h
  rw [step_of_ready h, State.popSchedule_of_nil hempty,
    executeWord_of_suppressed (decodeWord_encode _) rfl (exec_jp _ _), addrOperand_truncate (by omega)]
  rfl

/-- Settles O47: the state after one Step still spins, and its Step writes the opcode register and the phase it
already has. -/
theorem spinIsFixedPoint : Obligations.SpinIsFixedPoint := by
  intro s h hempty
  have ⟨⟨hnext, hf, _⟩, hfetch⟩ := h
  refine ⟨_, h.step_eq hempty, ?_, ((AgreeOutside.refl s).setPhase _).setOpcode _⟩
  have hspin : Spinning ((s.setPhase .running).setOpcode (encode (.jp (s.pc.truncate 12)))) :=
    ⟨⟨hnext, hf, rfl⟩, hfetch⟩
  exact hspin.step_eq hempty

end Sys2Proof.Machine
end

section
/-! Stack faults and the fetch out of bounds (60_exceptions.md R102 to R104), each from the guard that raises it, and the
words of T-DEC (95_test_vectors.md). -/

namespace Sys2Proof.Machine

/-! ## Call on a full stack and Return on an empty one (R102, R103) -/

theorem exec_call_of_full {s : State} (nnn : BitVec 12) (h : s.sp.val = 16) :
    exec (.call nnn) s = .next (s.takeFault .stackOverflow s.pc) := by
  rw [exec, execCall, State.push_eq_none.mpr h]

theorem exec_ret_of_empty {s : State} (h : s.sp.val = 0) :
    exec .ret s = .next (s.takeFault .stackUnderflow s.pc) := by
  rw [exec, execRet, State.pop_eq_none.mpr h]

/-- Settles O26: neither the push nor the pop answers, and the raise writes the latch only. -/
theorem stackFaults : Obligations.StackFaults := by
  refine ⟨fun nnn s hfull => ?_, fun s hempty => ?_⟩
  · exact ⟨_, exec_call_of_full nnn hfull, rfl, (AgreeOutside.refl s).takeFault _ _⟩
  · exact ⟨_, exec_ret_of_empty hempty, rfl, (AgreeOutside.refl s).takeFault _ _⟩

/-! ## A fetch beyond the last word of memory (R104) -/

theorem State.fetchedWord_of_pc_gt {s : State} (h : 0x0FFE < s.pc.toNat) : s.fetchedWord = none := by
  rw [State.fetchedWord_eq, if_neg (by simp only [Config.memSize]; omega)]

theorem stepCycle_of_pc_gt {s : State} (h : 0x0FFE < s.pc.toNat) :
    stepCycle s = .next (s.takeFault .fetchOutOfBounds s.pc) := by
  rw [stepCycle, State.fetchedWord_of_pc_gt h]

/-- Settles O31: the cycle raises before it writes the opcode register, on the state with the schedule popped and the
phase running. -/
theorem fetchOutOfBoundsFaults : Obligations.FetchOutOfBoundsFaults := by
  intro s hen hpc
  have hcycle := stepCycle_of_pc_gt (s := s.popSchedule.setPhase .running) hpc
  exact ⟨_, (step_of_enabled hen).trans hcycle, rfl, rfl, rfl,
    (((AgreeOutside.refl s).setSchedule _).setPhase _).takeFault _ _⟩

/-! ## The words of T-DEC (R49, R50) -/

/-- Settles O5: each of the ten words is the encoding of its instruction, and each of the four lies in a family's
Unknown part. -/
theorem specWordsDecode : Obligations.SpecWordsDecode := by
  refine ⟨decodeWord_cls, decodeWord_ret, decodeWord_encode (.jp 0xABC), decodeWord_encode (.call 0xFFF),
    decodeWord_encode (.seImm 0xA 0x7F), decodeWord_encode (.sneImm 0 0), decodeWord_encode (.seReg 1 2),
    decodeWord_encode (.ldImm 0xF 0xAB), decodeWord_encode (.subn 0xA 0xB), decodeWord_encode (.sneReg 0xA 0xB),
    ?_, ?_, ?_, ?_⟩
  all_goals exact (unknownWordsByFamily _).mpr (by decide)

end Sys2Proof.Machine
end
